-- ==== Sys2Proof/Word.lean ====
section
/-! DEFINITION. The widths of the hardware (00_scope R7, R10): 4-bit fields, 8-bit bytes, 12-bit addresses
in instruction words, 16-bit words.  Every value is unsigned. -/

namespace Sys2Proof

/-- A 4-bit field of an instruction word: a register index or a row count (R71). -/
abbrev Nib := BitVec 4

/-- An 8-bit value: a general register, a memory cell, a timer, an immediate (R7, R22, R50). -/
abbrev Byte := BitVec 8

/-- A 12-bit address field of an instruction word (R71). -/
abbrev Addr := BitVec 12

/-- A 16-bit value: an instruction word, `I`, `pc`, a stack slot (R7). -/
abbrev Word := BitVec 16

/-- A 16-bit number from two bytes, the first one the high byte (R54). -/
def Word.ofBytes (hi lo : Byte) : Word := hi ++ lo

/-- The high byte of a 16-bit number. -/
def Word.hi (w : Word) : Byte := w.extractLsb' 8 8

/-- The low byte of a 16-bit number. -/
def Word.lo (w : Word) : Byte := w.extractLsb' 0 8

end Sys2Proof
end

