-- ==== Sys2Proof/Machine/Flags.lean ====
section
/-! DEFINITION. Every flag computation of the spec: the value 0 or 1 that an instruction writes to `x[15]`
(10_state R23, R24).  `a` is the old `x[X]`, `b` the old `x[Y]` (42_load_and_alu R126). -/

namespace Sys2Proof.Machine

/-- A flag write stores the 8-bit value 0 or 1 (R23). -/
def flagByte (f : Bool) : Byte := if f then 1 else 0

/-- add-reg: the carry out of bit 7 (R127). -/
def carryFlag (a b : Byte) : Byte := flagByte (255 < a.toNat + b.toNat)

/-- sub-reg: strictly greater, so 0 for equal operands (R128, C2). -/
def greaterFlag (a b : Byte) : Byte := flagByte (b.toNat < a.toNat)

/-- subn-reg: `b >= a`, so 1 for equal operands (R130). -/
def noBorrowFlag (a b : Byte) : Byte := flagByte (a.toNat ≤ b.toNat)

/-- shift-right: the least significant bit before the shift (R129). -/
def shiftedOutRight (a : Byte) : Byte := flagByte (a.getLsbD 0)

/-- shift-left: the most significant bit before the shift (R131). -/
def shiftedOutLeft (a : Byte) : Byte := flagByte (a.getLsbD 7)

end Sys2Proof.Machine
end

