-- ==== Sys2Proof/Syntax.lean ====
section
/-! DEFINITION. The instructions: one constructor per mnemonic of spec/opcode_table.json (30_encoding R75) and
`noOp` for every unassigned word (R78, R96).  Bits the decoder ignores (R77) are not part of an instruction. -/

namespace Sys2Proof

/-- The 34 instructions in the order of R75's table, then the no-op.  `x`, `y` are register indices, `kk` an
immediate byte, `nnn` a 12-bit address, `n` a row count (R71, R73). -/
inductive Instr where
  | clearScreen
  | ret
  | jump (nnn : Addr)
  | call (nnn : Addr)
  | skipEqImm (x : Nib) (kk : Byte)
  | skipNeqImm (x : Nib) (kk : Byte)
  | skipEqReg (x y : Nib)
  | skipNeqReg (x y : Nib)
  | loadImm (x : Nib) (kk : Byte)
  | addImm (x : Nib) (kk : Byte)
  | move (x y : Nib)
  | orReg (x y : Nib)
  | andReg (x y : Nib)
  | xorReg (x y : Nib)
  | addReg (x y : Nib)
  | subReg (x y : Nib)
  | shiftRight (x : Nib)
  | subnReg (x y : Nib)
  | shiftLeft (x : Nib)
  | setIndex (nnn : Addr)
  | jumpOffset (nnn : Addr)
  | randomAnd (x : Nib) (kk : Byte)
  | draw (x y n : Nib)
  | skipKeyPressed (x : Nib)
  | skipKeyNotPressed (x : Nib)
  | loadDelay (x : Nib)
  | waitKey (x : Nib)
  | setDelay (x : Nib)
  | setSound (x : Nib)
  | addIndex (x : Nib)
  | loadGlyphAddr (x : Nib)
  | storeBcd (x : Nib)
  | storeRegs (x : Nib)
  | loadRegs (x : Nib)
  | noOp
  deriving DecidableEq, Repr

end Sys2Proof
end

