-- ==== Sys2Proof/Decode.lean ====
section
/-! DEFINITION. The decoder of 30_encoding R80, total on words and on byte lists, and after it the encoder that emits
the canonical word of R81.  The opcode numbers are those of R75 (the spec's decision D5, log entry 3). -/

namespace Sys2Proof

/-- The family, `ir[15:12]` (R71). -/
def fieldF (w : Word) : Nib := w.extractLsb' 12 4

/-- `X = ir[11:8]` (R12, R71). -/
def fieldX (w : Word) : Nib := w.extractLsb' 8 4

/-- `Y = ir[7:4]` (R12, R71). -/
def fieldY (w : Word) : Nib := w.extractLsb' 4 4

/-- `N = ir[3:0]` (R12, R71). -/
def fieldN (w : Word) : Nib := w.extractLsb' 0 4

/-- `KK = ir[7:0]` (R12, R71). -/
def fieldKK (w : Word) : Byte := w.extractLsb' 0 8

/-- `NNN = ir[11:0]` (R12, R71). -/
def fieldNNN (w : Word) : Addr := w.extractLsb' 0 12

/-- Family 0, keyed on the low nibble; bits 11 to 4 take no part (R74 b, R77 a). -/
def decodeFamily0 (w : Word) : Instr :=
  match fieldN w with
  | 0x0#4 => .clearScreen
  | 0xE#4 => .ret
  | _ => .noOp

/-- Family 8, keyed on the low nibble (R74 b); the shifts ignore `Y` (R77 d). -/
def decodeFamily8 (w : Word) : Instr :=
  match fieldN w with
  | 0x0#4 => .move (fieldX w) (fieldY w)
  | 0x1#4 => .orReg (fieldX w) (fieldY w)
  | 0x2#4 => .andReg (fieldX w) (fieldY w)
  | 0x3#4 => .xorReg (fieldX w) (fieldY w)
  | 0x4#4 => .addReg (fieldX w) (fieldY w)
  | 0x5#4 => .subReg (fieldX w) (fieldY w)
  | 0x6#4 => .shiftRight (fieldX w)
  | 0x7#4 => .subnReg (fieldX w) (fieldY w)
  | 0xE#4 => .shiftLeft (fieldX w)
  | _ => .noOp

/-- Family E, keyed on the low nibble; bits 7 to 4 take no part (R74 b, R77 c). -/
def decodeFamilyE (w : Word) : Instr :=
  match fieldN w with
  | 0xE#4 => .skipKeyPressed (fieldX w)
  | 0x1#4 => .skipKeyNotPressed (fieldX w)
  | _ => .noOp

/-- Family F, keyed on the whole low byte (R74 c, R77 e). -/
def decodeFamilyF (w : Word) : Instr :=
  match fieldKK w with
  | 0x07#8 => .loadDelay (fieldX w)
  | 0x0A#8 => .waitKey (fieldX w)
  | 0x15#8 => .setDelay (fieldX w)
  | 0x18#8 => .setSound (fieldX w)
  | 0x1E#8 => .addIndex (fieldX w)
  | 0x29#8 => .loadGlyphAddr (fieldX w)
  | 0x33#8 => .storeBcd (fieldX w)
  | 0x55#8 => .storeRegs (fieldX w)
  | 0x65#8 => .loadRegs (fieldX w)
  | _ => .noOp

/-- The decoder of R80: every word yields exactly one of the 34 instructions or the no-op. -/
def decodeWord (w : Word) : Instr :=
  match fieldF w with
  | 0x0#4 => decodeFamily0 w
  | 0x1#4 => .jump (fieldNNN w)
  | 0x2#4 => .call (fieldNNN w)
  | 0x3#4 => .skipEqImm (fieldX w) (fieldKK w)
  | 0x4#4 => .skipNeqImm (fieldX w) (fieldKK w)
  | 0x5#4 => .skipEqReg (fieldX w) (fieldY w)
  | 0x6#4 => .loadImm (fieldX w) (fieldKK w)
  | 0x7#4 => .addImm (fieldX w) (fieldKK w)
  | 0x8#4 => decodeFamily8 w
  | 0x9#4 => .skipNeqReg (fieldX w) (fieldY w)
  | 0xA#4 => .setIndex (fieldNNN w)
  | 0xB#4 => .jumpOffset (fieldNNN w)
  | 0xC#4 => .randomAnd (fieldX w) (fieldKK w)
  | 0xD#4 => .draw (fieldX w) (fieldY w) (fieldN w)
  | 0xE#4 => decodeFamilyE w
  | _ => decodeFamilyF w

/-- Why a byte list is no instruction: the only reason is that it ends too early, since every word decodes (R79). -/
inductive DecodeError where
  | truncated   -- fewer than the two bytes of an instruction (R70)
  deriving DecidableEq, Repr

/-- Decodes the instruction at the front of a byte list, high byte first (R54, R70), and gives the rest back. -/
def decode : List Byte → Except DecodeError (Instr × List Byte)
  | hi :: lo :: rest => .ok (decodeWord (Word.ofBytes hi lo), rest)
  | _ => .error .truncated

/-- A word of format `A`: family and a 12-bit address (R72). -/
def wordA (f : Nib) (nnn : Addr) : Word := f ++ nnn

/-- A word of format `XK`: family, register and immediate byte (R72); format `XB` has the same shape. -/
def wordXK (f x : Nib) (kk : Byte) : Word := (f ++ x) ++ kk

/-- A word of four nibbles: formats `XY`, `XYS`, `XYN`, `XS` and `S` (R72). -/
def wordXYN (f x y n : Nib) : Word := ((f ++ x) ++ y) ++ n

/-- The canonical word of an instruction, ignored nibbles at their conventional values (R75, R81); the no-op is the
word the assembler's `nop` emits (R83). -/
def encode : Instr → Word
  | .clearScreen => 0x00E0
  | .ret => 0x00EE
  | .jump nnn => wordA 0x1 nnn
  | .call nnn => wordA 0x2 nnn
  | .skipEqImm x kk => wordXK 0x3 x kk
  | .skipNeqImm x kk => wordXK 0x4 x kk
  | .skipEqReg x y => wordXYN 0x5 x y 0x0
  | .skipNeqReg x y => wordXYN 0x9 x y 0x0
  | .loadImm x kk => wordXK 0x6 x kk
  | .addImm x kk => wordXK 0x7 x kk
  | .move x y => wordXYN 0x8 x y 0x0
  | .orReg x y => wordXYN 0x8 x y 0x1
  | .andReg x y => wordXYN 0x8 x y 0x2
  | .xorReg x y => wordXYN 0x8 x y 0x3
  | .addReg x y => wordXYN 0x8 x y 0x4
  | .subReg x y => wordXYN 0x8 x y 0x5
  | .shiftRight x => wordXYN 0x8 x 0x0 0x6
  | .subnReg x y => wordXYN 0x8 x y 0x7
  | .shiftLeft x => wordXYN 0x8 x 0x0 0xE
  | .setIndex nnn => wordA 0xA nnn
  | .jumpOffset nnn => wordA 0xB nnn
  | .randomAnd x kk => wordXK 0xC x kk
  | .draw x y n => wordXYN 0xD x y n
  | .skipKeyPressed x => wordXYN 0xE x 0x9 0xE
  | .skipKeyNotPressed x => wordXYN 0xE x 0xA 0x1
  | .loadDelay x => wordXK 0xF x 0x07
  | .waitKey x => wordXK 0xF x 0x0A
  | .setDelay x => wordXK 0xF x 0x15
  | .setSound x => wordXK 0xF x 0x18
  | .addIndex x => wordXK 0xF x 0x1E
  | .loadGlyphAddr x => wordXK 0xF x 0x29
  | .storeBcd x => wordXK 0xF x 0x33
  | .storeRegs x => wordXK 0xF x 0x55
  | .loadRegs x => wordXK 0xF x 0x65
  | .noOp => 0x0001

/-- The two bytes of an instruction, high byte at the lower address (R54, R70). -/
def encodeBytes (i : Instr) : List Byte := [(encode i).hi, (encode i).lo]

/-- The mask column of R75 (for the no-op, of its canonical word's row in opcode_table.json). -/
def maskOf : Instr → Word
  | .clearScreen | .ret | .noOp => 0xF00F
  | .jump _ | .call _ | .setIndex _ | .jumpOffset _ => 0xF000
  | .skipEqImm _ _ | .skipNeqImm _ _ | .loadImm _ _ | .addImm _ _ | .randomAnd _ _ => 0xF000
  | .skipEqReg _ _ | .skipNeqReg _ _ | .draw _ _ _ => 0xF000
  | .move _ _ | .orReg _ _ | .andReg _ _ | .xorReg _ _ | .addReg _ _ | .subReg _ _ => 0xF00F
  | .shiftRight _ | .subnReg _ _ | .shiftLeft _ => 0xF00F
  | .skipKeyPressed _ | .skipKeyNotPressed _ => 0xF00F
  | .loadDelay _ | .waitKey _ | .setDelay _ | .setSound _ | .addIndex _ => 0xF0FF
  | .loadGlyphAddr _ | .storeBcd _ | .storeRegs _ | .loadRegs _ => 0xF0FF

/-- The match column of R75 (for the no-op, of its canonical word's row in opcode_table.json). -/
def matchOf : Instr → Word
  | .clearScreen => 0x0000
  | .ret => 0x000E
  | .jump _ => 0x1000
  | .call _ => 0x2000
  | .skipEqImm _ _ => 0x3000
  | .skipNeqImm _ _ => 0x4000
  | .skipEqReg _ _ => 0x5000
  | .skipNeqReg _ _ => 0x9000
  | .loadImm _ _ => 0x6000
  | .addImm _ _ => 0x7000
  | .move _ _ => 0x8000
  | .orReg _ _ => 0x8001
  | .andReg _ _ => 0x8002
  | .xorReg _ _ => 0x8003
  | .addReg _ _ => 0x8004
  | .subReg _ _ => 0x8005
  | .shiftRight _ => 0x8006
  | .subnReg _ _ => 0x8007
  | .shiftLeft _ => 0x800E
  | .setIndex _ => 0xA000
  | .jumpOffset _ => 0xB000
  | .randomAnd _ _ => 0xC000
  | .draw _ _ _ => 0xD000
  | .skipKeyPressed _ => 0xE00E
  | .skipKeyNotPressed _ => 0xE001
  | .loadDelay _ => 0xF007
  | .waitKey _ => 0xF00A
  | .setDelay _ => 0xF015
  | .setSound _ => 0xF018
  | .addIndex _ => 0xF01E
  | .loadGlyphAddr _ => 0xF029
  | .storeBcd _ => 0xF033
  | .storeRegs _ => 0xF055
  | .loadRegs _ => 0xF065
  | .noOp => 0x0001

/-- An instruction word whose bits are `w`, as opcode_table.json numbers them (bit 0 the least significant), every bit
above `nbits` zero. -/
def tableWord (nbits w : Nat) : Word := BitVec.ofNat 16 (w % 2 ^ nbits)

/-- What the decoder reads from a table row's word laid out in memory, high byte first. -/
def decodeTableWord (nbits w : Nat) : Option Instr :=
  match decode [(tableWord nbits w).hi, (tableWord nbits w).lo] with
  | .ok (i, _) => some i
  | .error _ => none

end Sys2Proof
end

