-- ==== Sys2Proof/WellFormed.lean ====
section
/-! DEFINITION. What may be given to the machine as numbers: operands as an assembler line writes them (30_encoding
R73, R81), the glyph base (00_scope R8) and the size of a program image (70_reset R215).  An `Instr` itself has
fields of exactly the encoding's widths, so every term of `Instr` is well formed by its type (log entry 20). -/

namespace Sys2Proof.WellFormed

/-- A register operand is written `x0` to `x15` (R81). -/
def isReg (n : Nat) : Bool := n < 16

/-- An immediate byte is 0..255 (R73). -/
def isByte (n : Nat) : Bool := n < 256

/-- An address operand is 0..4095 (R73). -/
def isAddr (n : Nat) : Bool := n < 4096

/-- A row count is 0..15 (R73). -/
def isCount (n : Nat) : Bool := n < 16

/-- A 16-bit data word of a `.word` directive (R82). -/
def isWord (n : Nat) : Bool := n < 65536

/-- `GLYPH_BASE + 80 <= 0x200` (R8). -/
def isGlyphBase (n : Nat) : Bool := n + 80 ≤ 0x200

/-- A program image has at most 3584 bytes (R7, R215). -/
def isImage (image : List Byte) : Bool := image.length ≤ 3584

end Sys2Proof.WellFormed
end

