-- ==== Sys2Proof/Config.lean ====
section
/-! DEFINITION. What an implementation fixes (the two open parameters of 00_scope R8) and the one free value (the
random byte of R9). -/

namespace Sys2Proof

/-- The open parameters of R8: where the glyph table lies and its 16 glyphs of 5 bytes.  The machine's state carries
them unchanged, so a theorem about every state is a theorem about every choice of them (log entry 1). -/
structure Config where
  glyphBase : Word
  glyphRom : Vector (Vector Byte 5) 16
  deriving DecidableEq, Repr

/-- R8's constraint on the parameters. -/
abbrev Config.wf (c : Config) : Prop := WellFormed.isGlyphBase c.glyphBase.toNat = true

/-- The bytes the random source delivers, in order (R9, D13).  It has no body: nothing in Lean can evaluate it, so
what is proved holds whatever the bytes are (log entry 2). -/
opaque Config.randomByte : Nat → Byte

end Sys2Proof
end

