-- ==== Sys2Proof/Machine/Glyphs.lean ====
section
/-! DEFINITION. The default values of the open parameters (00_scope R8, 10_state R41), which the spec supplies from
general knowledge and every test vector of 95_test_vectors.md uses (log entry 1). -/

namespace Sys2Proof.Machine

/-- Glyphs 0 to 7 of the conventional font, row 0 first (R41). -/
def glyphsLow : Vector (Vector Byte 5) 8 :=
  #v[#v[0xF0, 0x90, 0x90, 0x90, 0xF0], #v[0x20, 0x60, 0x20, 0x20, 0x70],
     #v[0xF0, 0x10, 0xF0, 0x80, 0xF0], #v[0xF0, 0x10, 0xF0, 0x10, 0xF0],
     #v[0x90, 0x90, 0xF0, 0x10, 0x10], #v[0xF0, 0x80, 0xF0, 0x10, 0xF0],
     #v[0xF0, 0x80, 0xF0, 0x90, 0xF0], #v[0xF0, 0x10, 0x20, 0x40, 0x40]]

/-- Glyphs 8 to F of the conventional font, row 0 first (R41). -/
def glyphsHigh : Vector (Vector Byte 5) 8 :=
  #v[#v[0xF0, 0x90, 0xF0, 0x90, 0xF0], #v[0xF0, 0x90, 0xF0, 0x10, 0xF0],
     #v[0xF0, 0x90, 0xF0, 0x90, 0x90], #v[0xE0, 0x90, 0xE0, 0x90, 0xE0],
     #v[0xF0, 0x80, 0x80, 0x80, 0xF0], #v[0xE0, 0x90, 0x90, 0x90, 0xE0],
     #v[0xF0, 0x80, 0xF0, 0x80, 0xF0], #v[0xF0, 0x80, 0xF0, 0x80, 0x80]]

/-- The default parameters: `GLYPH_BASE = 0x050` and the conventional font (R8, R41, D3, D4). -/
def defaultConfig : Config where
  glyphBase := 0x050
  glyphRom := glyphsLow ++ glyphsHigh

end Sys2Proof.Machine
end

