-- ==== Sys2Proof/Machine/State.lean ====
section
/-! DEFINITION. The state of the core as plain data (10_state R20), its reset value (R42, 70_reset R210), and the
reasons a step could stop. -/

namespace Sys2Proof.Machine

/-- The fault latch (10_state R36, 60_exceptions R190). -/
inductive FaultLatch where
  | none
  | stackOverflow
  | stackUnderflow
  deriving DecidableEq, Repr

/-- The memory: the cells that differ from their reset contents, addresses strictly rising below 4096 (log entry 4). -/
abbrev Memory := List Host.Cell

/-- The machine state.  The fields from `cfg` on are the model's own: the open parameters of R8, the input port that
holds `tick`'s argument `rnd` while an instruction executes (R9, R90), and the number of random bytes consumed. -/
structure State where
  mem : Memory
  x : Vector Byte 16
  I : Word
  pc : Word
  sp : Byte
  stack : Vector Word 16
  dt : Byte
  st : Byte
  video : Vector (Vector Bool 64) 32
  keys : Vector Bool 16
  ir : Word
  fault : FaultLatch
  cfg : Config
  rnd : Byte
  draws : Nat
  deriving DecidableEq, Repr

/-- Why a step stops outside the machine's own behaviour. -/
inductive Fault where
  /-- Raised by `call` with `sp` above 16 and `return` with `sp` above 16: the stack slot does not exist (R31).  No run
  reaches such a state (R30).  Safe: the model stops where the spec gives nothing. -/
  | noSuchStackSlot
  deriving DecidableEq, Repr

/-- Why an instruction has no meaning.  Every word has one (R79), so no step answers this. -/
inductive Refusal where
  /-- Raised by an arm of `exec` whose instruction has no meaning yet; no arm does.  Safe: the model stops. -/
  | notModelled (mnemonic : String)
  deriving DecidableEq, Repr

/-- The state after reset with given parameters (R42, R210): memory at its reset contents, everything zero except
`pc`, the fault latch clear. -/
def State.resetWith (c : Config) : State where
  mem := []
  x := Vector.replicate 16 0
  I := 0
  pc := 0x0200
  sp := 0
  stack := Vector.replicate 16 0
  dt := 0
  st := 0
  video := Vector.replicate 32 (Vector.replicate 64 false)
  keys := Vector.replicate 16 false
  ir := 0
  fault := .none
  cfg := c
  rnd := 0
  draws := 0

/-- The machine right after reset, with the spec's default parameters (R8, R42). -/
def State.reset : State := State.resetWith defaultConfig

end Sys2Proof.Machine
end

