-- ==== Sys2Proof/Machine/Ops.lean ====
section
/-! DEFINITION. The named operations over memory, registers, stack, timers, video and keypad; fetching; raising a
fault; the beginning and the end of a tick. -/

namespace Sys2Proof.Machine

/-! ### Memory (20_memory R50 to R52) -/

/-- Byte `j` of the glyph table, `GLYPH_ROM[j]` (10_state R40, R41). -/
def glyphByte (c : Config) (j : Nat) : Byte := (c.glyphRom[j / 5]?.bind (·[j % 5]?)).getD 0

/-- What a byte of memory holds after reset, and what an unlisted address reads as (R42, R210). -/
def resetByte (c : Config) (a : Nat) : Byte :=
  if c.glyphBase.toNat ≤ a ∧ a < c.glyphBase.toNat + 80 then glyphByte c (a - c.glyphBase.toNat) else 0

/-- The listed byte at an address, if there is one. -/
def Memory.byteAt : Memory → Nat → Option Byte
  | [], _ => none
  | (k, v) :: m, a => if k = a then some v else Memory.byteAt m a

/-- The list with a byte put at its place. -/
def Memory.putByte : Memory → Nat → Byte → Memory
  | [], a, b => [(a, b)]
  | (k, v) :: m, a, b =>
    if a < k then (a, b) :: (k, v) :: m
    else if k = a then (a, b) :: m
    else (k, v) :: Memory.putByte m a b

/-- The list without an address. -/
def Memory.dropByte : Memory → Nat → Memory
  | [], _ => []
  | (k, v) :: m, a => if k = a then Memory.dropByte m a else (k, v) :: Memory.dropByte m a

/-- Addresses strictly rising and every one at least `lo`. -/
def Memory.rising : Nat → Memory → Bool
  | _, [] => true
  | lo, (k, _) :: m => decide (lo ≤ k) && Memory.rising (k + 1) m

/-- The canonical form: addresses strictly rising, all below 4096, no entry equal to the reset contents. -/
def Memory.wf (c : Config) (m : Memory) : Bool :=
  Memory.rising 0 m && m.all fun e => decide (e.1 < 4096) && decide (e.2 ≠ resetByte c e.1)

/-- `MemRead(addr, 1)`: the byte at `addr mod 4096` (R51). -/
def State.readMem (s : State) (addr : Nat) : Byte :=
  (s.mem.byteAt (addr % 4096)).getD (resetByte s.cfg (addr % 4096))

/-- `MemWrite(addr, 1, v)`: stores at `addr mod 4096` and changes nothing else (R52). -/
def State.writeMem (s : State) (addr : Nat) (v : Byte) : State :=
  { s with mem := if v = resetByte s.cfg (addr % 4096) then s.mem.dropByte (addr % 4096)
                  else s.mem.putByte (addr % 4096) v }

/-- Stores a list of bytes at ascending addresses. -/
def State.writeBytes (s : State) (addr : Nat) : List Byte → State
  | [] => s
  | b :: bs => (s.writeMem addr b).writeBytes (addr + 1) bs

/-! ### Registers (10_state R22 to R32) -/

/-- `x[r]`. -/
def State.reg (s : State) (r : Nib) : Byte := s.x[r.toNat]'(r.isLt)

/-- `x[r] <- v`. -/
def State.setReg (s : State) (r : Nib) (v : Byte) : State := { s with x := s.x.set r.toNat v r.isLt }

/-- `I <- v`. -/
def State.setIndex (s : State) (v : Word) : State := { s with I := v }

/-- `pc <- v`. -/
def State.setPc (s : State) (v : Word) : State := { s with pc := v }

/-- `sp <- v`. -/
def State.setSp (s : State) (v : Byte) : State := { s with sp := v }

/-- `dt <- v`. -/
def State.setDelay (s : State) (v : Byte) : State := { s with dt := v }

/-- `st <- v`. -/
def State.setSound (s : State) (v : Byte) : State := { s with st := v }

/-- `stack[k]` (R31). -/
def State.slot (s : State) (k : Fin 16) : Word := s.stack[k]

/-- `stack[k] <- v` (R31). -/
def State.setSlot (s : State) (k : Fin 16) (v : Word) : State := { s with stack := s.stack.set k v }

/-- The stack slot of a number, where there is one (R31: 16 slots). -/
def slotAt (n : Nat) : Option (Fin 16) := if h : n < 16 then some ⟨n, h⟩ else none

/-- One random byte has been consumed (R9). -/
def State.countDraw (s : State) : State := { s with draws := s.draws + 1 }

/-! ### Video and keypad (10_state R33, R34) -/

/-- `Pixel(px, py)`: column, then row. -/
def State.pixel (s : State) (px : Fin 64) (py : Fin 32) : Bool := s.video[py][px]

/-- `Pixel(px, py) <- v`. -/
def State.setPixel (s : State) (px : Fin 64) (py : Fin 32) (v : Bool) : State :=
  { s with video := s.video.set py (s.video[py].set px v) }

/-- Every pixel off (44_video R160). -/
def State.clearVideo (s : State) : State := { s with video := Vector.replicate 32 (Vector.replicate 64 false) }

/-- `Key(k)`: true when pressed. -/
def State.key (s : State) (k : Nib) : Bool := s.keys[k.toNat]'(k.isLt)

/-- The lowest pressed key of an ascending scan of 0 to 15 (45_keypad R173). -/
def State.lowestKey (s : State) : Option Nat := (List.range 16).find? fun k => s.key (BitVec.ofNat 4 k)

/-! ### The program counter (41_flow R107, 45_keypad R173) -/

/-- A taken skip adds 2 to the already advanced `pc`, modulo 65536 (R107). -/
def State.skipIf (s : State) (cond : Bool) : State := if cond then s.setPc (s.pc + 2) else s

/-- Back to the executing instruction, modulo 65536 (R173 e). -/
def State.retreat (s : State) : State := s.setPc (s.pc - 2)

/-! ### Flag-writing instructions (42_load_and_alu R126) -/

/-- Phases 2 and 3 of R126: the flag is written to `x[15]`, then the result to `x[X]`. -/
def State.writeFlagResult (s : State) (x : Nib) (flag result : Byte) : State := (s.setReg 15 flag).setReg x result

/-! ### Faults (60_exceptions R190 to R198) -/

/-- Raises a fault: the latch is set.  `finishTick` then discards what else the tick wrote (R97, R195).  There is no
handler to go to and no return from a fault (R198). -/
def State.raise (s : State) (f : FaultLatch) : State := { s with fault := f }

/-- The numeric code of a fault (R190, D9). -/
def FaultLatch.code : FaultLatch → Nat
  | .none => 0
  | .stackOverflow => 1
  | .stackUnderflow => 2

/-! ### The tick (40_tick_cycle R90 to R95) -/

/-- The instruction word at `pc`: two bytes, the first one the high byte (R54, R91). -/
def State.fetchWord (s : State) : Word := Word.ofBytes (s.readMem s.pc.toNat) (s.readMem (s.pc.toNat + 1))

/-- The state in which an instruction executes: `ir` fetched, `pc` advanced by 2 modulo 65536, the tick's random byte
on its input port (R90, R91). -/
def State.beginTick (s : State) (rnd : Byte) : State := { s with ir := s.fetchWord, pc := s.pc + 2, rnd := rnd }

/-- A timer counts down while nonzero (R32, R95). -/
def countDown (v : Byte) : Byte := if v = 0 then 0 else v - 1

/-- The timer tick that ends every tick that did not fault (R95). -/
def State.timerTick (s : State) : State := { s with dt := countDown s.dt, st := countDown s.st }

/-- The end of a tick that began in `s` and executed to `t`: the timer tick, or, where the instruction raised a fault,
`s` with the latch set and nothing else (R95, R97, R195).  The random byte's port holds it for one tick only (R9). -/
def State.finishTick (s t : State) : State :=
  if t.fault = .none then { t.timerTick with rnd := s.rnd } else { s with fault := t.fault }

end Sys2Proof.Machine
end

