-- ==== Sys2Proof/Machine/Operands.lean ====
section
/-! DEFINITION. Every operand form: effective addresses through `I` (43_index R146), key indices (45_keypad R176),
sprite geometry (44_video R161, R162), decimal digits (43_index R143). -/

namespace Sys2Proof.Machine

/-- The effective address `(I + k) mod 4096` (R146). -/
def State.effAddr (s : State) (k : Nat) : Nat := (s.I.toNat + k) % 4096

/-- The key selected by a register: `x[X] mod 16` (R176, D7). -/
def State.keyIndex (s : State) (x : Nib) : Nib := (s.reg x).setWidth 4

/-- The screen column `c` places right of a start column, both reduced modulo 64 (R162). -/
def column (v : Byte) (c : Nat) : Fin 64 := Fin.ofNat 64 (v.toNat % 64 + c)

/-- The screen row `r` places below a start row, both reduced modulo 32 (R162). -/
def row (v : Byte) (r : Nat) : Fin 32 := Fin.ofNat 32 (v.toNat % 32 + r)

/-- Column `c` of a sprite byte, counted from the left: bit `7 - c` (R161). -/
def spriteBit (b : Byte) (c : Nat) : Bool := b.getLsbD (7 - c)

/-- The hundreds digit (R143). -/
def hundreds (v : Byte) : Byte := BitVec.ofNat 8 (v.toNat / 100)

/-- The tens digit (R143). -/
def tens (v : Byte) : Byte := BitVec.ofNat 8 (v.toNat / 10 % 10)

/-- The ones digit (R143). -/
def ones (v : Byte) : Byte := BitVec.ofNat 8 (v.toNat % 10)

end Sys2Proof.Machine
end

