-- ==== Sys2Proof/Machine/Alu.lean ====
section
/-! DEFINITION. Register loads, arithmetic and random (42_load_and_alu.md).  The flag-writing instructions read every
operand first, then write the flag, then the result (R126). -/

namespace Sys2Proof.Machine

/-- load-imm (R120). -/
def execLoadImm (x : Nib) (kk : Byte) (s : State) : Host.Outcome State Fault Refusal := .next (s.setReg x kk)

/-- add-imm (R121): wraps modulo 256, no flag. -/
def execAddImm (x : Nib) (kk : Byte) (s : State) : Host.Outcome State Fault Refusal :=
  .next (s.setReg x (s.reg x + kk))

/-- move (R122). -/
def execMove (x y : Nib) (s : State) : Host.Outcome State Fault Refusal := .next (s.setReg x (s.reg y))

/-- or (R123). -/
def execOrReg (x y : Nib) (s : State) : Host.Outcome State Fault Refusal := .next (s.setReg x (s.reg x ||| s.reg y))

/-- and (R124). -/
def execAndReg (x y : Nib) (s : State) : Host.Outcome State Fault Refusal := .next (s.setReg x (s.reg x &&& s.reg y))

/-- xor (R125). -/
def execXorReg (x y : Nib) (s : State) : Host.Outcome State Fault Refusal := .next (s.setReg x (s.reg x ^^^ s.reg y))

/-- add-reg (R127). -/
def execAddReg (x y : Nib) (s : State) : Host.Outcome State Fault Refusal :=
  .next (s.writeFlagResult x (carryFlag (s.reg x) (s.reg y)) (s.reg x + s.reg y))

/-- sub-reg (R128). -/
def execSubReg (x y : Nib) (s : State) : Host.Outcome State Fault Refusal :=
  .next (s.writeFlagResult x (greaterFlag (s.reg x) (s.reg y)) (s.reg x - s.reg y))

/-- shift-right (R129): `Y` is not read. -/
def execShiftRight (x : Nib) (s : State) : Host.Outcome State Fault Refusal :=
  .next (s.writeFlagResult x (shiftedOutRight (s.reg x)) (s.reg x >>> 1))

/-- subn-reg (R130). -/
def execSubnReg (x y : Nib) (s : State) : Host.Outcome State Fault Refusal :=
  .next (s.writeFlagResult x (noBorrowFlag (s.reg x) (s.reg y)) (s.reg y - s.reg x))

/-- shift-left (R131): `Y` is not read. -/
def execShiftLeft (x : Nib) (s : State) : Host.Outcome State Fault Refusal :=
  .next (s.writeFlagResult x (shiftedOutLeft (s.reg x)) (s.reg x <<< 1))

/-- random-and (R132): one random byte is consumed; it is the input `rnd` of this tick (R9). -/
def execRandomAnd (x : Nib) (kk : Byte) (s : State) : Host.Outcome State Fault Refusal :=
  .next ((s.setReg x (s.rnd &&& kk)).countDraw)

end Sys2Proof.Machine
end

