-- ==== Sys2Proof/Machine/Control.lean ====
section
/-! DEFINITION. Control transfer (41_flow_control.md) and the no-op (40_tick_cycle.md).  In every meaning the `pc` of
the state is the already advanced one (R91). -/

namespace Sys2Proof.Machine

/-- return (R100, R192). -/
def execRet (s : State) : Host.Outcome State Fault Refusal :=
  if s.sp = 0 then .next (s.raise .stackUnderflow)
  else match slotAt (s.sp.toNat - 1) with
    | some k => .next ((s.setSp (s.sp - 1)).setPc (s.slot k))
    | none => .fault .noSuchStackSlot

/-- jump (R101). -/
def execJump (nnn : Addr) (s : State) : Host.Outcome State Fault Refusal := .next (s.setPc (nnn.setWidth 16))

/-- call (R102, R191). -/
def execCall (nnn : Addr) (s : State) : Host.Outcome State Fault Refusal :=
  if s.sp = 16 then .next (s.raise .stackOverflow)
  else match slotAt s.sp.toNat with
    | some k => .next (((s.setSlot k s.pc).setSp (s.sp + 1)).setPc (nnn.setWidth 16))
    | none => .fault .noSuchStackSlot

/-- skip-eq-imm (R103). -/
def execSkipEqImm (x : Nib) (kk : Byte) (s : State) : Host.Outcome State Fault Refusal :=
  .next (s.skipIf (s.reg x == kk))

/-- skip-neq-imm (R104). -/
def execSkipNeqImm (x : Nib) (kk : Byte) (s : State) : Host.Outcome State Fault Refusal :=
  .next (s.skipIf (s.reg x != kk))

/-- skip-eq-reg (R105). -/
def execSkipEqReg (x y : Nib) (s : State) : Host.Outcome State Fault Refusal :=
  .next (s.skipIf (s.reg x == s.reg y))

/-- skip-neq-reg (R106). -/
def execSkipNeqReg (x y : Nib) (s : State) : Host.Outcome State Fault Refusal :=
  .next (s.skipIf (s.reg x != s.reg y))

/-- jump-offset (R108): the exact sum fits 16 bits. -/
def execJumpOffset (nnn : Addr) (s : State) : Host.Outcome State Fault Refusal :=
  .next (s.setPc (BitVec.ofNat 16 (nnn.toNat + (s.reg 0).toNat)))

/-- no-op (R96). -/
def execNoOp (s : State) : Host.Outcome State Fault Refusal := .next s

end Sys2Proof.Machine
end

