-- ==== Sys2Proof/Machine/IndexMem.lean ====
section
/-! DEFINITION. The index register and memory transfers (43_index_and_memory.md).  No access changes `I` (R146). -/

namespace Sys2Proof.Machine

/-- set-index (R140). -/
def execSetIndex (nnn : Addr) (s : State) : Host.Outcome State Fault Refusal := .next (s.setIndex (nnn.setWidth 16))

/-- add-index (R141): wraps modulo 65536, no flag. -/
def execAddIndex (x : Nib) (s : State) : Host.Outcome State Fault Refusal :=
  .next (s.setIndex (s.I + (s.reg x).setWidth 16))

/-- load-glyph-addr (R142): all 8 bits of `x[X]` enter the product. -/
def execLoadGlyphAddr (x : Nib) (s : State) : Host.Outcome State Fault Refusal :=
  .next (s.setIndex (BitVec.ofNat 16 (s.cfg.glyphBase.toNat + 5 * (s.reg x).toNat)))

/-- store-bcd (R143): hundreds, tens, ones at `I`, `I + 1`, `I + 2`. -/
def execStoreBcd (x : Nib) (s : State) : Host.Outcome State Fault Refusal :=
  .next (((s.writeMem (s.effAddr 0) (hundreds (s.reg x))).writeMem (s.effAddr 1) (tens (s.reg x))).writeMem
    (s.effAddr 2) (ones (s.reg x)))

/-- Register `i` of `s` stored at `I + i` (R144). -/
def storeOne (s : State) (t : State) (i : Nat) : State := t.writeMem (s.effAddr i) (s.reg (BitVec.ofNat 4 i))

/-- store-regs (R144): registers 0 to `X` inclusive, ascending. -/
def execStoreRegs (x : Nib) (s : State) : Host.Outcome State Fault Refusal :=
  .next ((List.range (x.toNat + 1)).foldl (storeOne s) s)

/-- Register `i` loaded from `I + i` (R145). -/
def loadOne (s : State) (t : State) (i : Nat) : State := t.setReg (BitVec.ofNat 4 i) (s.readMem (s.effAddr i))

/-- load-regs (R145): registers 0 to `X` inclusive, ascending. -/
def execLoadRegs (x : Nib) (s : State) : Host.Outcome State Fault Refusal :=
  .next ((List.range (x.toNat + 1)).foldl (loadOne s) s)

end Sys2Proof.Machine
end

