-- ==== Sys2Proof/Machine/KeypadTimers.lean ====
section
/-! DEFINITION. Keypad and timer instructions (45_keypad_and_timers.md).  The timer tick follows each of them in the
same tick (R95). -/

namespace Sys2Proof.Machine

/-- skip-key-pressed (R170). -/
def execSkipKeyPressed (x : Nib) (s : State) : Host.Outcome State Fault Refusal :=
  .next (s.skipIf (s.key (s.keyIndex x)))

/-- skip-key-not-pressed (R171). -/
def execSkipKeyNotPressed (x : Nib) (s : State) : Host.Outcome State Fault Refusal :=
  .next (s.skipIf (!s.key (s.keyIndex x)))

/-- load-delay (R172): the value before this tick's decrement. -/
def execLoadDelay (x : Nib) (s : State) : Host.Outcome State Fault Refusal := .next (s.setReg x s.dt)

/-- wait-key (R173): the lowest pressed key, or back to this instruction. -/
def execWaitKey (x : Nib) (s : State) : Host.Outcome State Fault Refusal :=
  match s.lowestKey with
  | some k => .next (s.setReg x (BitVec.ofNat 8 k))
  | none => .next s.retreat

/-- set-delay (R174). -/
def execSetDelay (x : Nib) (s : State) : Host.Outcome State Fault Refusal := .next (s.setDelay (s.reg x))

/-- set-sound (R175). -/
def execSetSound (x : Nib) (s : State) : Host.Outcome State Fault Refusal := .next (s.setSound (s.reg x))

end Sys2Proof.Machine
end

