-- ==== Sys2Proof/Machine/Video.lean ====
section
/-! DEFINITION. clear-screen and draw with its collision detector (44_video.md). -/

namespace Sys2Proof.Machine

/-- clear-screen (R160). -/
def execClearScreen (s : State) : Host.Outcome State Fault Refusal := .next s.clearVideo

/-- One set bit of a sprite reaches a pixel: a pixel that is on sets the collision flag; the pixel flips (R162). -/
def flipPixel (t : State) (px : Fin 64) (py : Fin 32) : State :=
  (if t.pixel px py then t.setReg 15 (flagByte true) else t).setPixel px py (!t.pixel px py)

/-- Column `c` of the sprite byte `b` in screen row `py`: a 1 bit flips its pixel, a 0 bit leaves it (R161, R162). -/
def drawColumn (vx : Byte) (py : Fin 32) (b : Byte) (t : State) (c : Nat) : State :=
  if spriteBit b c then flipPixel t (column vx c) py else t

/-- Row `r` of a sprite: the byte at `I + r` and its 8 columns (R161, R162). -/
def drawRow (vx vy : Byte) (t : State) (r : Nat) : State :=
  (List.range 8).foldl (drawColumn vx (row vy r) (t.readMem (t.effAddr r))) t

/-- draw (R162): the operands are read before `x[15]` is reset (R163). -/
def execDraw (x y n : Nib) (s : State) : Host.Outcome State Fault Refusal :=
  .next ((List.range n.toNat).foldl (drawRow (s.reg x) (s.reg y)) (s.setReg 15 (flagByte false)))

end Sys2Proof.Machine
end

