-- ==== Sys2Proof/Machine/Tick.lean ====
section
/-! DEFINITION. `tick(rnd)`, the only step of the core (40_tick_cycle R90), and where a program's words lie for the
next fetch. -/

namespace Sys2Proof.Machine

/-- Dispatch and execute a fetched word between the beginning and the end of a tick (R91 to R95). -/
def State.runWord (s : State) (w : Word) (rnd : Byte) : Host.Outcome State Fault Refusal :=
  match exec (decodeWord w) (s.beginTick rnd) with
  | .next t => .next (s.finishTick t)
  | .fault f => .fault f
  | .refused r => .refused r

/-- `tick(rnd)` (R90).  A halted core does nothing at all (R98). -/
def tick (rnd : Byte) (s : State) : Host.Outcome State Fault Refusal :=
  if s.fault = .none then s.runWord s.fetchWord rnd else .next s

/-- The state with an instruction word stored where the next fetch reads it, high byte first (R54, R91). -/
def State.placeWord (s : State) (w : Word) : State := (s.writeMem s.pc.toNat w.hi).writeMem (s.pc.toNat + 1) w.lo

end Sys2Proof.Machine
end

