-- ==== Sys2Proof/Machine/Step.lean ====
section
/-! DEFINITION. The step of the machine: one tick, its random byte a free value (40_tick_cycle R90, 00_scope R9). -/

namespace Sys2Proof.Machine

/-- One tick, given the next byte of the random source (log entry 2). -/
def step (s : State) : Host.Outcome State Fault Refusal := tick (Config.randomByte s.draws) s

/-- `s` with a row's word stored where `step` fetches next; this stands for the host's `load` (log entry 19). -/
def State.withFetchWord (s : State) (nbits w : Nat) : State := s.placeWord (tableWord nbits w)

end Sys2Proof.Machine
end

