-- ==== Sys2Proof/Machine/HostOps.lean ====
section
/-! DEFINITION. The host's operations on the core (00_scope R6, 70_reset_and_hazards.md, 10_state R32 to R36): reset,
load, setKeys, tick, and what the host may observe. -/

namespace Sys2Proof.Machine

/-- The error of `load` (60_exceptions R206, 70_reset R215); it is never latched. -/
inductive LoadError where
  | imageTooLarge
  deriving DecidableEq, Repr

/-- `reset` (R210, R211) of a running core: everything at its reset value; the open parameters are those the core was
built with, and the bytes a random source outside the core has delivered stay delivered (R37). -/
def State.hostReset (s : State) : State := { State.resetWith s.cfg with draws := s.draws }

/-- `load(image)` (R212 to R215): copies the image from 0x200, or fails with no change when it is too large. -/
def State.load (s : State) (image : List Byte) : Except LoadError State :=
  if WellFormed.isImage image then .ok (s.writeBytes 0x200 image) else .error .imageTooLarge

/-- `setKeys(k)` (R34): writes the sixteen key states and changes nothing else. -/
def State.setKeys (s : State) (k : Vector Bool 16) : State := { s with keys := k }

/-- The observation `sound_on` (R32). -/
def State.soundOn (s : State) : Bool := s.st != 0

/-- The observation `video` (R33): the whole grid, one row after another (the order is the host's, D19). -/
def State.videoOut (s : State) : List Bool := s.video.toList.flatMap Vector.toList

/-- The observation `fault` as a number (R36, R190). -/
def State.faultOut (s : State) : Nat := s.fault.code

/-- The operations that change the state (R6). -/
inductive HostOp where
  | reset
  | load (image : List Byte)
  | setKeys (k : Vector Bool 16)
  | tick (rnd : Byte)
  deriving DecidableEq, Repr

/-- One operation performed at a tick boundary (R6, R16).  A failed load changes nothing (R215). -/
def HostOp.apply : HostOp → State → Host.Outcome State Fault Refusal
  | .reset, s => .next s.hostReset
  | .load image, s => match s.load image with
    | .ok t => .next t
    | .error _ => .next s
  | .setKeys k, s => .next (s.setKeys k)
  | .tick rnd, s => Machine.tick rnd s

end Sys2Proof.Machine
end

