-- ==== Sys2Proof/Safety.lean ====
section
/-! DEFINITION. What claims about the core are stated in: the invariant of every reachable state, a run that has not
faulted, and which parts of the state a transition may write. -/

namespace Sys2Proof.Machine

/-- The core has not halted: the premise a claim about a program carries (60_exceptions R194). -/
abbrev State.Running (s : State) : Prop := s.fault = .none

/-- What holds at every tick boundary: `sp` is in 0..16 (10_state R30); a latched overflow was raised with `sp = 16`
and a latched underflow with `sp = 0`, and the faulting tick changed nothing else (R191, R192, R195); memory has its
canonical form; the glyph table lies below 0x200 (R8). -/
abbrev State.Inv (s : State) : Prop :=
  s.sp.toNat ≤ 16 ∧ (s.fault = .stackOverflow → s.sp = 16) ∧ (s.fault = .stackUnderflow → s.sp = 0) ∧
    Memory.wf s.cfg s.mem = true ∧ s.cfg.wf

/-- The states that host operations reach from the first reset of a core built with some parameters (R6, R211). -/
inductive Reachable : State → Prop where
  | boot (c : Config) (h : c.wf) : Reachable (State.resetWith c)
  | op (o : HostOp) {s t : State} (h : Reachable s) (ht : o.apply s = .next t) : Reachable t

/-- Which parts of the state an instruction may write; a part not named is not written.  Addresses are 0..4095. -/
structure Writes where
  reg : Nib → Prop := fun _ => False
  mem : Nat → Prop := fun _ => False
  slot : Fin 16 → Prop := fun _ => False
  pixel : Fin 64 → Fin 32 → Prop := fun _ _ => False
  index : Prop := False
  pc : Prop := False
  sp : Prop := False
  dt : Prop := False
  st : Prop := False
  fault : Prop := False
  draws : Prop := False

/-- Every part of the state outside `w` is the same in `t` as in `s`: registers, every byte of memory as a read gives
it, stack slots, pixels, the special registers, the keypad (R21: no step writes it), and the model's own fields. -/
structure Untouched (w : Writes) (s t : State) : Prop where
  reg : ∀ r, ¬ w.reg r → t.reg r = s.reg r
  mem : ∀ a, a < 4096 → ¬ w.mem a → t.readMem a = s.readMem a
  slot : ∀ k, ¬ w.slot k → t.slot k = s.slot k
  pixel : ∀ px py, ¬ w.pixel px py → t.pixel px py = s.pixel px py
  index : ¬ w.index → t.I = s.I
  pc : ¬ w.pc → t.pc = s.pc
  sp : ¬ w.sp → t.sp = s.sp
  dt : ¬ w.dt → t.dt = s.dt
  st : ¬ w.st → t.st = s.st
  fault : ¬ w.fault → t.fault = s.fault
  draws : ¬ w.draws → t.draws = s.draws
  keys : t.keys = s.keys
  ir : t.ir = s.ir
  cfg : t.cfg = s.cfg
  rnd : t.rnd = s.rnd

/-- The sprite pixel that a draw at start column `vx` and start row `vy` puts on screen cell `(px, py)`: whether the
cell lies in the `n` rows and 8 columns of the sprite, both taken with wraparound, and its bit is 1 (44_video R161,
R162, R164 d).  Column `c` of row `r` is bit `7 - c` of the byte at `I + r`. -/
def State.spriteAt (s : State) (vx vy : Byte) (n : Nat) (px : Fin 64) (py : Fin 32) : Bool :=
  let c := (px.val + 64 - vx.toNat % 64) % 64
  let r := (py.val + 32 - vy.toNat % 32) % 32
  decide (c < 8) && decide (r < n) && (s.readMem (s.effAddr r)).getLsbD (7 - c)

/-- Every word that a row's mask and match select (30_encoding R75) decodes to the instruction `f` makes of it. -/
abbrev Selects (mask value : Word) (f : Word → Instr) : Prop := ∀ w : Word, w &&& mask = value → decodeWord w = f w

/-- The one register an instruction names as its destination. -/
def Writes.oneReg (x : Nib) : Writes := { reg := fun r => r = x }

/-- The flag register and the destination register of a flag-writing instruction (R126). -/
def Writes.flagAndReg (x : Nib) : Writes := { reg := fun r => r = x ∨ r = 15 }

/-- What each instruction writes in a state, as its rule's "Writes" line lists it (40_tick_cycle R94). -/
def writesOf (i : Instr) (s : State) : Writes :=
  match i with
  | .clearScreen => { pixel := fun _ _ => True }
  | .ret => { sp := s.sp ≠ 0, pc := s.sp ≠ 0, fault := s.sp = 0 }
  | .jump _ => { pc := True }
  | .call _ => { slot := fun k => k.val = s.sp.toNat, sp := s.sp ≠ 16, pc := s.sp ≠ 16, fault := s.sp = 16 }
  | .skipEqImm x kk => { pc := s.reg x = kk }
  | .skipNeqImm x kk => { pc := s.reg x ≠ kk }
  | .skipEqReg x y => { pc := s.reg x = s.reg y }
  | .skipNeqReg x y => { pc := s.reg x ≠ s.reg y }
  | .loadImm x _ => .oneReg x
  | .addImm x _ => .oneReg x
  | .move x _ => .oneReg x
  | .orReg x _ => .oneReg x
  | .andReg x _ => .oneReg x
  | .xorReg x _ => .oneReg x
  | .addReg x _ => .flagAndReg x
  | .subReg x _ => .flagAndReg x
  | .shiftRight x => .flagAndReg x
  | .subnReg x _ => .flagAndReg x
  | .shiftLeft x => .flagAndReg x
  | .setIndex _ => { index := True }
  | .jumpOffset _ => { pc := True }
  | .randomAnd x _ => { reg := fun r => r = x, draws := True }
  | .draw x y n =>
    { reg := fun r => r = 15, pixel := fun px py => s.spriteAt (s.reg x) (s.reg y) n.toNat px py = true }
  | .skipKeyPressed x => { pc := s.key (s.keyIndex x) = true }
  | .skipKeyNotPressed x => { pc := s.key (s.keyIndex x) = false }
  | .loadDelay x => .oneReg x
  | .waitKey x => { reg := fun r => r = x ∧ ∃ k, s.key k = true, pc := ∀ k, s.key k = false }
  | .setDelay _ => { dt := True }
  | .setSound _ => { st := True }
  | .addIndex _ => { index := True }
  | .loadGlyphAddr _ => { index := True }
  | .storeBcd _ => { mem := fun a => a = s.effAddr 0 ∨ a = s.effAddr 1 ∨ a = s.effAddr 2 }
  | .storeRegs x => { mem := fun a => ∃ k, k ≤ x.toNat ∧ a = s.effAddr k }
  | .loadRegs x => { reg := fun r => r.toNat ≤ x.toNat }
  | .noOp => {}

end Sys2Proof.Machine
end

