-- ==== Sys2Proof/Certificates/Slice0/Obligations.lean ====
section
/-! DEFINITION. The statements for the provers, from the numbered rules of spec/.  Where a docstring says "opcode number:
D5", the mask and match of the row are the spec's own decision (92_eei_decisions D5, log entry 3); "mod 4096: D2" is log
entry 5, and so on. -/

open Sys2Proof Sys2Proof.Machine

/-! ### Encoding -/

/-- Words written out from 30_encoding R75 and 95_test_vectors V30, one or more of each family (opcode numbers: D5). -/
def Obligations.SpecWordsDecode : Prop :=
  decodeWord 0x0000 = .clearScreen ∧ decodeWord 0x0FF0 = .clearScreen ∧ decodeWord 0x0ABE = .ret ∧
  decodeWord 0x1234 = .jump 0x234 ∧ decodeWord 0x332A = .skipEqImm 3 0x2A ∧ decodeWord 0x5AB7 = .skipEqReg 10 11 ∧
  decodeWord 0x6A7F = .loadImm 10 0x7F ∧ decodeWord 0x8125 = .subReg 1 2 ∧ decodeWord 0x8AB6 = .shiftRight 10 ∧
  decodeWord 0x8AB8 = .noOp ∧ decodeWord 0xA2F0 = .setIndex 0x2F0 ∧ decodeWord 0xC50F = .randomAnd 5 0x0F ∧
  decodeWord 0xD125 = .draw 1 2 5 ∧ decodeWord 0xE0FE = .skipKeyPressed 0 ∧ decodeWord 0xE09F = .noOp ∧
  decodeWord 0xFF65 = .loadRegs 15 ∧ decodeWord 0xF075 = .noOp

/-- Decoding the bytes an instruction encodes to gives that instruction and the bytes after it, for every instruction
and every operand (R70, R75, R81). -/
def Obligations.DecodeEncodeRoundTrip : Prop :=
  ∀ (i : Instr) (rest : List Byte), decode (encodeBytes i ++ rest) = .ok (i, rest)

/-- Every word lies in the row of the instruction it decodes to, and a word in an instruction's row decodes to that
row's instruction (R74, R75, R80; opcode numbers: D5). -/
def Obligations.DecoderFollowsOpcodeMap : Prop :=
  (∀ w : Word, decodeWord w ≠ .noOp → w &&& maskOf (decodeWord w) = matchOf (decodeWord w)) ∧
  (∀ (i : Instr) (w : Word), w &&& maskOf i = matchOf i →
    maskOf (decodeWord w) = maskOf i ∧ matchOf (decodeWord w) = matchOf i)

/-- The words without a handler are exactly those of R78's table, and they are the no-op (R78, R79; D5). -/
def Obligations.UnassignedWordsAreNoOps : Prop :=
  ∀ w : Word, decodeWord w = .noOp ↔
    (fieldF w = 0x0 ∧ fieldN w ≠ 0x0 ∧ fieldN w ≠ 0xE) ∨
    (fieldF w = 0x8 ∧ 0x8 ≤ (fieldN w).toNat ∧ fieldN w ≠ 0xE) ∨
    (fieldF w = 0xE ∧ fieldN w ≠ 0x1 ∧ fieldN w ≠ 0xE) ∨
    (fieldF w = 0xF ∧ fieldKK w ∉ [0x07#8, 0x0A, 0x15, 0x18, 0x1E, 0x29, 0x33, 0x55, 0x65])

/-- A table word placed where the machine fetches next is what it fetches: laid out high byte first (R54, R70). -/
def Obligations.PlacedWordIsFetched : Prop :=
  ∀ (s : State) (w : Nat), w < 65536 →
    (s.withFetchWord 16 w).fetchWord.toNat = w ∧
    decodeTableWord 16 w = some (decodeWord (s.withFetchWord 16 w).fetchWord)

/-! ### The tick -/

/-- When the bytes at `pc` decode to an instruction, a running core's step is that instruction's meaning in the state
with `ir` fetched, `pc` advanced by 2 and the random byte delivered; then each nonzero timer counts down, or, where the
instruction raised a fault, nothing but the latch has changed (R90, R91, R95, R97; precise faults: D8, log entry 9).
No instruction is refused (R79).  The random byte is a free value (D13, log entry 2). -/
def Obligations.StepRunsDecodedInstruction : Prop :=
  ∀ (s : State) (i : Instr) (rest : List Byte), s.fault = .none →
    decode [s.readMem s.pc.toNat, s.readMem (s.pc.toNat + 1)] = .ok (i, rest) →
    let s₁ := { s with ir := Word.ofBytes (s.readMem s.pc.toNat) (s.readMem (s.pc.toNat + 1)), pc := s.pc + 2,
                       rnd := Config.randomByte s.draws }
    (∀ t, exec i s₁ = .next t → t.fault = .none →
      step s = .next { t with dt := if t.dt = 0 then 0 else t.dt - 1, st := if t.st = 0 then 0 else t.st - 1,
                              rnd := s.rnd }) ∧
    (∀ t, exec i s₁ = .next t → t.fault ≠ .none → step s = .next { s with fault := t.fault }) ∧
    (∀ f, exec i s₁ = .fault f → step s = .fault f) ∧
    (∀ r, exec i s₁ ≠ .refused r)

/-- The fetched word is the byte read at `pc` times 256 plus the byte read at `pc + 1`, for every `pc` (R54). -/
def Obligations.FetchIsBigEndian : Prop :=
  ∀ s : State, s.fetchWord.toNat =
    (s.readMem s.pc.toNat).toNat * 256 + (s.readMem (s.pc.toNat + 1)).toNat

/-- A halted core's tick changes nothing at all (R98, R194; D8 and D20, log entry 9). -/
def Obligations.HaltedTickChangesNothing : Prop :=
  ∀ (s : State) (rnd : Byte), s.fault ≠ .none → tick rnd s = .next s ∧ step s = .next s

/-- A call with all 16 slots in use changes the latch and nothing else, and the core stays so (R191, R195, R98; D8, log
entry 9; opcode number: D5). -/
def Obligations.StackOverflowIsPrecise : Prop :=
  ∀ (s : State) (rnd : Byte), s.fault = .none → s.fetchWord &&& 0xF000 = 0x2000 → s.sp = 16 →
    tick rnd s = .next { s with fault := .stackOverflow } ∧
    ∀ rnd', tick rnd' { s with fault := .stackOverflow } = .next { s with fault := .stackOverflow }

/-- A return on an empty stack changes the latch and nothing else, and the core stays so (R192, R195, R98; D8, log
entry 9; opcode number: D5). -/
def Obligations.StackUnderflowIsPrecise : Prop :=
  ∀ (s : State) (rnd : Byte), s.fault = .none → s.fetchWord &&& 0xF00F = 0x000E → s.sp = 0 →
    tick rnd s = .next { s with fault := .stackUnderflow } ∧
    ∀ rnd', tick rnd' { s with fault := .stackUnderflow } = .next { s with fault := .stackUnderflow }

/-- A tick of a running core latches a fault only for a call with `sp = 16` or a return with `sp = 0`, and then the latch
is the only change (R190, R94, R195; D8, log entry 9). -/
def Obligations.OnlyCallAndReturnFault : Prop :=
  ∀ (s t : State) (rnd : Byte), s.fault = .none → tick rnd s = .next t → t.fault ≠ .none →
    ((∃ nnn, decodeWord s.fetchWord = .call nnn) ∧ s.sp = 16 ∧ t = { s with fault := .stackOverflow }) ∨
    (decodeWord s.fetchWord = .ret ∧ s.sp = 0 ∧ t = { s with fault := .stackUnderflow })

/-- After every tick that did not fault each timer is one lower, or zero; a value just set is already decremented;
load-delay reads the value before the decrement; and a timer that no instruction writes holds `v - n` after `n` ticks
(R95). -/
def Obligations.TimersCountDownEveryTick : Prop :=
  (∀ (s t : State) (rnd : Byte), s.fault = .none → tick rnd s = .next t → t.fault = .none →
    ((∀ x, decodeWord s.fetchWord ≠ .setDelay x) → t.dt.toNat = s.dt.toNat - 1) ∧
    ((∀ x, decodeWord s.fetchWord ≠ .setSound x) → t.st.toNat = s.st.toNat - 1) ∧
    (∀ x, decodeWord s.fetchWord = .setDelay x → t.dt.toNat = (s.reg x).toNat - 1) ∧
    (∀ x, decodeWord s.fetchWord = .setSound x → t.st.toNat = (s.reg x).toNat - 1) ∧
    (∀ x, decodeWord s.fetchWord = .loadDelay x → t.reg x = s.dt)) ∧
  (∀ (n : Nat) (run : Nat → State),
    (∀ k < n, (run k).fault = .none ∧ (∃ rnd, tick rnd (run k) = .next (run (k + 1))) ∧
      (run (k + 1)).fault = .none) →
    ((∀ k < n, ∀ x, decodeWord (run k).fetchWord ≠ .setDelay x) → (run n).dt.toNat = (run 0).dt.toNat - n) ∧
    ((∀ k < n, ∀ x, decodeWord (run k).fetchWord ≠ .setSound x) → (run n).st.toNat = (run 0).st.toNat - n))

/-- The random byte influences a tick only when the instruction executed is random-and (R99). -/
def Obligations.RandomByteReachesOnlyRandomAnd : Prop :=
  ∀ (s : State) (r₁ r₂ : Byte), (∀ x kk, decodeWord s.fetchWord ≠ .randomAnd x kk) → tick r₁ s = tick r₂ s

/-- No tick stalls: in every state that meets the invariant it answers a next state, for every random byte (R225, R60). -/
def Obligations.EveryTickCompletes : Prop :=
  ∀ s : State, s.Inv → (∀ rnd, ∃ t, tick rnd s = .next t) ∧ ∃ t, step s = .next t

/-- No tick writes the keypad buffer (R21, R34) or the parameters of R8, and setKeys writes nothing else (R34; D17, log
entry 17). -/
def Obligations.KeypadIsTheHostsAlone : Prop :=
  (∀ (s t : State) (rnd : Byte), tick rnd s = .next t → t.keys = s.keys ∧ t.cfg = s.cfg) ∧
  (∀ (s : State) (k : Vector Bool 16),
    (∀ i : Nib, (s.setKeys k).key i = k[i.toNat]'(i.isLt)) ∧ s.setKeys k = { s with keys := k })

/-- Whatever instruction executes, it writes only what its rule's "Writes" line lists, `writesOf`: every other register,
byte of memory, stack slot, pixel and special register is unchanged (R94).  The clauses for stored bytes rest on D2 (log
entry 5), the pixels a draw writes on D6 (log entry 6), the key skips on D7 (log entry 7), what call and return write
when they fault on D8 (log entry 9), and the field `draws` is the model's own choice (log entry 2). -/
def Obligations.InstructionsWriteOnlyWhatTheyList : Prop :=
  ∀ (i : Instr) (s t : State), exec i s = .next t → Untouched (writesOf i s) s t

/-! ### The invariant -/

/-- The reset state meets the invariant, for the default parameters (log entry 1) and for every admissible choice. -/
def Obligations.ResetMeetsInvariant : Prop :=
  State.reset.Inv ∧ ∀ c : Config, c.wf → (State.resetWith c).Inv

/-- Every step keeps the invariant: `sp` in 0..16, a latched fault's `sp`, memory's canonical form, the glyph table below
0x200 (R30, R191, R192, R8). -/
def Obligations.StepKeepsInvariant : Prop :=
  ∀ s t : State, s.Inv → step s = .next t → t.Inv

/-- Every state that the host's operations reach from a first reset meets the invariant (R6, R30, R211); the step it
rests on is `HostOperationsKeepInvariant`. -/
def Obligations.ReachableStatesMeetInvariant : Prop :=
  ∀ s : State, Reachable s → s.Inv

/-! ### Memory, reset and load -/

/-- An address is taken modulo 4096; a read after a write gives the written byte at the same address and the old byte
elsewhere; a write changes no register and keeps the canonical form (R57; mod 4096: D2, log entry 5; canonical form: log
entry 4). -/
def Obligations.MemoryReadAfterWrite : Prop :=
  ∀ (s : State) (a : Nat) (v : Byte),
    (∀ c, s.readMem c = s.readMem (c % 4096)) ∧
    (∀ c, (s.writeMem a v).readMem c = if c % 4096 = a % 4096 then v else s.readMem c) ∧
    (∃ m, s.writeMem a v = { s with mem := m }) ∧
    (Memory.wf s.cfg s.mem = true → Memory.wf s.cfg (s.writeMem a v).mem = true)

/-- After reset, from any state: memory zero except the 80 glyph bytes at GLYPH_BASE, every register, slot, timer, pixel
and key zero, `pc = 0x0200`, no fault (R210). -/
def Obligations.ResetClearsEverything : Prop :=
  ∀ s : State,
    let t := s.hostReset
    (∀ a, a < 4096 → t.readMem a =
      if h : s.cfg.glyphBase.toNat ≤ a ∧ a < s.cfg.glyphBase.toNat + 80
      then (s.cfg.glyphRom[(a - s.cfg.glyphBase.toNat) / 5])[(a - s.cfg.glyphBase.toNat) % 5] else 0) ∧
    (∀ r, t.reg r = 0) ∧ t.I = 0 ∧ t.pc = 0x0200 ∧ t.sp = 0 ∧ (∀ k, t.slot k = 0) ∧ t.dt = 0 ∧ t.st = 0 ∧
    (∀ px py, t.pixel px py = false) ∧ (∀ k, t.key k = false) ∧ t.ir = 0 ∧ t.fault = .none ∧
    State.reset = State.reset.hostReset

/-- `load` of an image of at most 3584 bytes succeeds, copies it verbatim from 0x200 on and writes nothing else: no
register, timer or stack slot, no byte past the image and none below 0x200 (R213). -/
def Obligations.LoadCopiesImage : Prop :=
  ∀ (s : State) (image : List Byte), image.length ≤ 3584 →
    ∃ t, s.load image = .ok t ∧ (∀ j (h : j < image.length), t.readMem (0x200 + j) = image[j]) ∧
      Untouched { mem := fun a => 0x200 ≤ a ∧ a < 0x200 + image.length } s t

/-- `load` of a longer image fails, and the operation changes nothing (R215; no partial copy: D18, log entry 18). -/
def Obligations.OversizedImageIsRefused : Prop :=
  ∀ (s : State) (image : List Byte), 3584 < image.length →
    s.load image = .error .imageTooLarge ∧ (HostOp.load image).apply s = .next s

/-- After reset and a successful load the first word fetched is the first two bytes of the image (R212, R214, R216). -/
def Obligations.FirstInstructionIsImageStart : Prop :=
  ∀ (s t : State) (hi lo : Byte) (rest : List Byte), s.hostReset.load (hi :: lo :: rest) = .ok t →
    t.fetchWord = Word.ofBytes hi lo ∧ t.fault = .none

/-- With no program loaded, the first tick after reset executes the zero word as clear-screen and only `pc` moves (R217,
R77 a), for every admissible choice of the parameters; rests on D5 (log entry 3). -/
def Obligations.EmptyMemoryRunsClearScreen : Prop :=
  ∀ (c : Config) (rnd : Byte), c.wf →
    decodeWord (State.resetWith c).fetchWord = .clearScreen ∧
    tick rnd (State.resetWith c) = .next { State.resetWith c with pc := 0x0202 }

/-! ### Control transfer and the no-op.  In each statement `s.pc` is the already advanced `pc` (R91). -/

/-- return (R100, R192; opcode number: D5): with 1 to 16 active calls it pops the top slot into `pc`; with none it raises
StackUnderflow. -/
def Obligations.ReturnPopsIntoPc : Prop :=
  Selects 0xF00F 0x000E (fun _ => .ret) ∧
  (∀ (s : State) (k : Fin 16), s.sp.toNat = k.val + 1 → ∃ t, exec .ret s = .next t ∧ t.pc = s.slot k ∧
    t.sp.toNat = k.val ∧ Untouched { pc := True, sp := True } s t) ∧
  (∀ s : State, s.sp = 0 → ∃ t, exec .ret s = .next t ∧ t.fault = .stackUnderflow ∧
    Untouched { fault := True } s t)

/-- jump (R101; opcode number: D5). -/
def Obligations.JumpGoesToAddress : Prop :=
  Selects 0xF000 0x1000 (fun w => .jump (fieldNNN w)) ∧
  ∀ (s : State) (nnn : Addr), ∃ t, exec (.jump nnn) s = .next t ∧ t.pc.toNat = nnn.toNat ∧
    Untouched { pc := True } s t

/-- call (R102, R191; opcode number: D5): with a free slot it pushes the advanced `pc` and jumps; with none it raises
StackOverflow. -/
def Obligations.CallPushesAdvancedPc : Prop :=
  Selects 0xF000 0x2000 (fun w => .call (fieldNNN w)) ∧
  (∀ (s : State) (nnn : Addr) (k : Fin 16), s.sp.toNat = k.val → ∃ t, exec (.call nnn) s = .next t ∧
    t.slot k = s.pc ∧ t.sp.toNat = k.val + 1 ∧ t.pc.toNat = nnn.toNat ∧
    Untouched { slot := fun j => j = k, sp := True, pc := True } s t) ∧
  (∀ (s : State) (nnn : Addr), s.sp = 16 → ∃ t, exec (.call nnn) s = .next t ∧ t.fault = .stackOverflow ∧
    Untouched { fault := True } s t)

/-- A call, then a return in any later state with the same stack and stack pointer, restores `pc` to the value after the
call's fetch (R100, R102, R31). -/
def Obligations.CallThenReturnRestoresPc : Prop :=
  ∀ (s t u : State) (nnn : Addr), s.sp.toNat < 16 → exec (.call nnn) s = .next t → u.sp = t.sp → u.stack = t.stack →
    ∃ v, exec .ret u = .next v ∧ v.pc = s.pc ∧ v.sp = s.sp ∧ ∀ k : Fin 16, k.val < s.sp.toNat → v.slot k = s.slot k

/-- skip-eq-imm and skip-neq-imm (R103, R104, R107; opcode numbers: D5; wrap at 65536: D10, log entry 10). -/
def Obligations.SkipImmediateComparesRegister : Prop :=
  Selects 0xF000 0x3000 (fun w => .skipEqImm (fieldX w) (fieldKK w)) ∧
  Selects 0xF000 0x4000 (fun w => .skipNeqImm (fieldX w) (fieldKK w)) ∧
  ∀ (s : State) (x : Nib) (kk : Byte),
    (∃ t, exec (.skipEqImm x kk) s = .next t ∧
      t.pc.toNat = (if s.reg x = kk then (s.pc.toNat + 2) % 65536 else s.pc.toNat) ∧
      Untouched { pc := s.reg x = kk } s t) ∧
    (∃ t, exec (.skipNeqImm x kk) s = .next t ∧
      t.pc.toNat = (if s.reg x ≠ kk then (s.pc.toNat + 2) % 65536 else s.pc.toNat) ∧
      Untouched { pc := s.reg x ≠ kk } s t)

/-- skip-eq-reg and skip-neq-reg (R105, R106, R107; opcode numbers: D5; wrap at 65536: D10, log entry 10). -/
def Obligations.SkipRegisterComparesRegisters : Prop :=
  Selects 0xF000 0x5000 (fun w => .skipEqReg (fieldX w) (fieldY w)) ∧
  Selects 0xF000 0x9000 (fun w => .skipNeqReg (fieldX w) (fieldY w)) ∧
  ∀ (s : State) (x y : Nib),
    (∃ t, exec (.skipEqReg x y) s = .next t ∧
      t.pc.toNat = (if s.reg x = s.reg y then (s.pc.toNat + 2) % 65536 else s.pc.toNat) ∧
      Untouched { pc := s.reg x = s.reg y } s t) ∧
    (∃ t, exec (.skipNeqReg x y) s = .next t ∧
      t.pc.toNat = (if s.reg x ≠ s.reg y then (s.pc.toNat + 2) % 65536 else s.pc.toNat) ∧
      Untouched { pc := s.reg x ≠ s.reg y } s t)

/-- jump-offset (R108; opcode number: D5): the sum is stored unreduced. -/
def Obligations.JumpOffsetAddsRegisterZero : Prop :=
  Selects 0xF000 0xB000 (fun w => .jumpOffset (fieldNNN w)) ∧
  ∀ (s : State) (nnn : Addr), ∃ t, exec (.jumpOffset nnn) s = .next t ∧
    t.pc.toNat = nnn.toNat + (s.reg 0).toNat ∧ Untouched { pc := True } s t

/-- no-op (R96; which words: D5): executing it changes nothing; its whole tick fetches, advances `pc` and counts the
timers down. -/
def Obligations.NoOpOnlyAdvances : Prop :=
  (∀ s : State, ∃ t, exec .noOp s = .next t ∧ Untouched {} s t) ∧
  (∀ (s : State) (rnd : Byte), s.fault = .none → decodeWord s.fetchWord = .noOp →
    ∃ t, tick rnd s = .next t ∧ t.ir = s.fetchWord ∧ t.pc.toNat = (s.pc.toNat + 2) % 65536 ∧
      t.dt.toNat = s.dt.toNat - 1 ∧ t.st.toNat = s.st.toNat - 1 ∧ t.mem = s.mem ∧ t.x = s.x ∧ t.I = s.I ∧
      t.sp = s.sp ∧ t.stack = s.stack ∧ t.video = s.video ∧ t.keys = s.keys ∧ t.fault = .none ∧
      t.draws = s.draws ∧ t.cfg = s.cfg)

/-! ### Register loads, arithmetic and random -/

/-- load-imm (R120; opcode number: D5). -/
def Obligations.LoadImmWritesImmediate : Prop :=
  Selects 0xF000 0x6000 (fun w => .loadImm (fieldX w) (fieldKK w)) ∧
  ∀ (s : State) (x : Nib) (kk : Byte), ∃ t, exec (.loadImm x kk) s = .next t ∧ t.reg x = kk ∧
    Untouched { reg := fun r => r = x } s t

/-- add-imm (R121; opcode number: D5): wraps modulo 256 and writes no flag. -/
def Obligations.AddImmWrapsWithoutFlag : Prop :=
  Selects 0xF000 0x7000 (fun w => .addImm (fieldX w) (fieldKK w)) ∧
  ∀ (s : State) (x : Nib) (kk : Byte), ∃ t, exec (.addImm x kk) s = .next t ∧
    (t.reg x).toNat = ((s.reg x).toNat + kk.toNat) % 256 ∧ Untouched { reg := fun r => r = x } s t

/-- move (R122; opcode number: D5). -/
def Obligations.MoveCopiesRegister : Prop :=
  Selects 0xF00F 0x8000 (fun w => .move (fieldX w) (fieldY w)) ∧
  ∀ (s : State) (x y : Nib), ∃ t, exec (.move x y) s = .next t ∧ t.reg x = s.reg y ∧
    Untouched { reg := fun r => r = x } s t

/-- or, and, xor (R123, R124, R125; opcode numbers: D5): bit by bit, no flag. -/
def Obligations.BitwiseOperationsWriteNoFlag : Prop :=
  Selects 0xF00F 0x8001 (fun w => .orReg (fieldX w) (fieldY w)) ∧
  Selects 0xF00F 0x8002 (fun w => .andReg (fieldX w) (fieldY w)) ∧
  Selects 0xF00F 0x8003 (fun w => .xorReg (fieldX w) (fieldY w)) ∧
  ∀ (s : State) (x y : Nib),
    (∃ t, exec (.orReg x y) s = .next t ∧
      (∀ b, (t.reg x).getLsbD b = ((s.reg x).getLsbD b || (s.reg y).getLsbD b)) ∧
      Untouched { reg := fun r => r = x } s t) ∧
    (∃ t, exec (.andReg x y) s = .next t ∧
      (∀ b, (t.reg x).getLsbD b = ((s.reg x).getLsbD b && (s.reg y).getLsbD b)) ∧
      Untouched { reg := fun r => r = x } s t) ∧
    (∃ t, exec (.xorReg x y) s = .next t ∧
      (∀ b, (t.reg x).getLsbD b = ((s.reg x).getLsbD b ^^ (s.reg y).getLsbD b)) ∧
      Untouched { reg := fun r => r = x } s t)

/-- add-reg (R127, R126; opcode number: D5; operand sampling: D16, log entry 12): sum modulo 256 in `x[X]`, carry in
`x[15]`; with `X = 15` the sum stays. -/
def Obligations.AddRegWritesCarry : Prop :=
  Selects 0xF00F 0x8004 (fun w => .addReg (fieldX w) (fieldY w)) ∧
  ∀ (s : State) (x y : Nib), ∃ t, exec (.addReg x y) s = .next t ∧
    (t.reg x).toNat = ((s.reg x).toNat + (s.reg y).toNat) % 256 ∧
    (x ≠ 15 → t.reg 15 = if (s.reg x).toNat + (s.reg y).toNat > 255 then 1 else 0) ∧
    Untouched { reg := fun r => r = x ∨ r = 15 } s t

/-- sub-reg (R128, R126; opcode number: D5; operand sampling: D16, log entry 12): the flag is strict, 0 for equal
operands. -/
def Obligations.SubRegFlagIsStrict : Prop :=
  Selects 0xF00F 0x8005 (fun w => .subReg (fieldX w) (fieldY w)) ∧
  ∀ (s : State) (x y : Nib), ∃ t, exec (.subReg x y) s = .next t ∧
    (t.reg x).toNat = ((s.reg x).toNat + 256 - (s.reg y).toNat) % 256 ∧
    (x ≠ 15 → t.reg 15 = if (s.reg x).toNat > (s.reg y).toNat then 1 else 0) ∧
    Untouched { reg := fun r => r = x ∨ r = 15 } s t

/-- shift-right (R129, R126; opcode number: D5; operand sampling: D16, log entry 12): `x[X]` is shifted whatever the `Y`
field holds; the bit shifted out is the flag. -/
def Obligations.ShiftRightFlagsLowBit : Prop :=
  Selects 0xF00F 0x8006 (fun w => .shiftRight (fieldX w)) ∧
  ∀ (s : State) (x : Nib), ∃ t, exec (.shiftRight x) s = .next t ∧
    (t.reg x).toNat = (s.reg x).toNat / 2 ∧
    (x ≠ 15 → (t.reg 15).toNat = (s.reg x).toNat % 2) ∧
    Untouched { reg := fun r => r = x ∨ r = 15 } s t

/-- subn-reg (R130, R126; opcode number: D5; operand sampling: D16, log entry 12): the flag is 1 for equal operands. -/
def Obligations.SubnRegFlagIsNoBorrow : Prop :=
  Selects 0xF00F 0x8007 (fun w => .subnReg (fieldX w) (fieldY w)) ∧
  ∀ (s : State) (x y : Nib), ∃ t, exec (.subnReg x y) s = .next t ∧
    (t.reg x).toNat = ((s.reg y).toNat + 256 - (s.reg x).toNat) % 256 ∧
    (x ≠ 15 → t.reg 15 = if (s.reg y).toNat ≥ (s.reg x).toNat then 1 else 0) ∧
    Untouched { reg := fun r => r = x ∨ r = 15 } s t

/-- shift-left (R131, R126; opcode number: D5; operand sampling: D16, log entry 12): `x[X]` is shifted whatever the `Y`
field holds; the bit shifted out is the flag. -/
def Obligations.ShiftLeftFlagsHighBit : Prop :=
  Selects 0xF00F 0x800E (fun w => .shiftLeft (fieldX w)) ∧
  ∀ (s : State) (x : Nib), ∃ t, exec (.shiftLeft x) s = .next t ∧
    (t.reg x).toNat = (s.reg x).toNat * 2 % 256 ∧
    (x ≠ 15 → (t.reg 15).toNat = (s.reg x).toNat / 128) ∧
    Untouched { reg := fun r => r = x ∨ r = 15 } s t

/-- random-and (R132, R9; opcode number: D5): the tick's random byte masked, for every value of that byte (a free value,
D13, log entry 2); one byte is consumed. -/
def Obligations.RandomAndMasksTheByte : Prop :=
  Selects 0xF000 0xC000 (fun w => .randomAnd (fieldX w) (fieldKK w)) ∧
  (∀ (s : State) (x : Nib) (kk : Byte), ∃ t, exec (.randomAnd x kk) s = .next t ∧ t.reg x = s.rnd &&& kk ∧
    t.draws = s.draws + 1 ∧ Untouched { reg := fun r => r = x, draws := True } s t) ∧
  (∀ (s : State) (x : Nib) (kk rnd : Byte), s.fault = .none → decodeWord s.fetchWord = .randomAnd x kk →
    ∃ t, tick rnd s = .next t ∧ t.reg x = rnd &&& kk)

/-! ### Index register and memory transfers -/

/-- set-index (R140; opcode number: D5). -/
def Obligations.SetIndexLoadsAddress : Prop :=
  Selects 0xF000 0xA000 (fun w => .setIndex (fieldNNN w)) ∧
  ∀ (s : State) (nnn : Addr), ∃ t, exec (.setIndex nnn) s = .next t ∧ t.I.toNat = nnn.toNat ∧
    Untouched { index := True } s t

/-- add-index (R141; opcode number: D5; wrap at 65536: D10, log entry 10): no flag. -/
def Obligations.AddIndexWrapsAtSixteenBits : Prop :=
  Selects 0xF0FF 0xF01E (fun w => .addIndex (fieldX w)) ∧
  ∀ (s : State) (x : Nib), ∃ t, exec (.addIndex x) s = .next t ∧
    t.I.toNat = (s.I.toNat + (s.reg x).toNat) % 65536 ∧ Untouched { index := True } s t

/-- load-glyph-addr (R142; opcode number: D5), for every admissible glyph base (R8): no mask, no reduction. -/
def Obligations.LoadGlyphAddrIsExact : Prop :=
  Selects 0xF0FF 0xF029 (fun w => .loadGlyphAddr (fieldX w)) ∧
  ∀ (s : State) (x : Nib), s.cfg.wf → ∃ t, exec (.loadGlyphAddr x) s = .next t ∧
    t.I.toNat = s.cfg.glyphBase.toNat + 5 * (s.reg x).toNat ∧ Untouched { index := True } s t

/-- store-bcd (R143; opcode number: D5; mod 4096: D2, log entry 5): three digits at `I`, `I + 1`, `I + 2`, each address
reduced on its own; `I` unchanged. -/
def Obligations.StoreBcdWritesThreeDigits : Prop :=
  Selects 0xF0FF 0xF033 (fun w => .storeBcd (fieldX w)) ∧
  ∀ (s : State) (x : Nib), ∃ t, exec (.storeBcd x) s = .next t ∧
    (t.readMem (s.effAddr 0)).toNat = (s.reg x).toNat / 100 ∧
    (t.readMem (s.effAddr 1)).toNat = (s.reg x).toNat / 10 % 10 ∧
    (t.readMem (s.effAddr 2)).toNat = (s.reg x).toNat % 10 ∧
    Untouched { mem := fun a => a = s.effAddr 0 ∨ a = s.effAddr 1 ∨ a = s.effAddr 2 } s t

/-- store-regs (R144; opcode number: D5; mod 4096: D2, log entry 5): registers 0 to `X` inclusive at `I` and up; `I`
unchanged. -/
def Obligations.StoreRegsCopiesInclusiveRange : Prop :=
  Selects 0xF0FF 0xF055 (fun w => .storeRegs (fieldX w)) ∧
  ∀ (s : State) (x : Nib), ∃ t, exec (.storeRegs x) s = .next t ∧
    (∀ r : Nib, r.toNat ≤ x.toNat → t.readMem (s.effAddr r.toNat) = s.reg r) ∧
    Untouched { mem := fun a => ∃ k, k ≤ x.toNat ∧ a = s.effAddr k } s t

/-- load-regs (R145; opcode number: D5; mod 4096: D2, log entry 5): registers 0 to `X` inclusive from `I` and up; `I` and
memory unchanged. -/
def Obligations.LoadRegsCopiesInclusiveRange : Prop :=
  Selects 0xF0FF 0xF065 (fun w => .loadRegs (fieldX w)) ∧
  ∀ (s : State) (x : Nib), ∃ t, exec (.loadRegs x) s = .next t ∧
    (∀ r : Nib, r.toNat ≤ x.toNat → t.reg r = s.readMem (s.effAddr r.toNat)) ∧
    Untouched { reg := fun r => r.toNat ≤ x.toNat } s t

/-- A store by store-regs is seen by the very next fetch: two registers stored at `I = pc` are the next instruction word
(R65, R144; mod 4096: D2, log entry 5). -/
def Obligations.NextFetchSeesStoredRegisters : Prop :=
  ∀ (s t : State) (x : Nib), 1 ≤ x.toNat → s.I = s.pc → exec (.storeRegs x) s = .next t →
    t.fetchWord = Word.ofBytes (s.reg 0) (s.reg 1)

/-! ### Video -/

/-- clear-screen (R160; opcode number: D5). -/
def Obligations.ClearScreenTurnsPixelsOff : Prop :=
  Selects 0xF00F 0x0000 (fun _ => .clearScreen) ∧
  ∀ s : State, ∃ t, exec .clearScreen s = .next t ∧ (∀ px py, t.pixel px py = false) ∧
    Untouched { pixel := fun _ _ => True } s t

/-- draw (R162, R163, R164 d; opcode number: D5; bit order: D6, log entry 6; mod 4096: D2, log entry 5): the buffer after is
the buffer before xor the sprite placed with wraparound at the old `(x[X], x[Y])`; `x[15]` is 1 iff some pixel that was
on is turned off. -/
def Obligations.DrawXorsSpriteAndFlagsCollision : Prop :=
  Selects 0xF000 0xD000 (fun w => .draw (fieldX w) (fieldY w) (fieldN w)) ∧
  ∀ (s : State) (x y n : Nib), ∃ t, exec (.draw x y n) s = .next t ∧
    (∀ px py, t.pixel px py = (s.pixel px py ^^ s.spriteAt (s.reg x) (s.reg y) n.toNat px py)) ∧
    ((∃ px py, s.pixel px py = true ∧ t.pixel px py = false) → t.reg 15 = 1) ∧
    ((¬ ∃ px py, s.pixel px py = true ∧ t.pixel px py = false) → t.reg 15 = 0) ∧
    Untouched { reg := fun r => r = 15,
                pixel := fun px py => s.spriteAt (s.reg x) (s.reg y) n.toNat px py = true } s t

/-- Two identical draws restore the video buffer, and the second reports a collision iff the first turned a pixel on
(R164 c), wherever the first draw, which writes the flag register, leaves both coordinates as they were. -/
def Obligations.DrawingTwiceRestoresVideo : Prop :=
  ∀ (s t : State) (x y n : Nib), exec (.draw x y n) s = .next t → t.reg x = s.reg x → t.reg y = s.reg y →
    ∃ u, exec (.draw x y n) t = .next u ∧ (∀ px py, u.pixel px py = s.pixel px py) ∧
      (u.reg 15 = 1 ↔ ∃ px py, s.pixel px py = false ∧ t.pixel px py = true)

/-! ### Keypad and timers -/

/-- skip-key-pressed and skip-key-not-pressed (R170, R171, R176; opcode numbers: D5; key index modulo 16: D7, log entry 7;
wrap at 65536: D10, log entry 10). -/
def Obligations.KeySkipsTestTheSelectedKey : Prop :=
  Selects 0xF00F 0xE00E (fun w => .skipKeyPressed (fieldX w)) ∧
  Selects 0xF00F 0xE001 (fun w => .skipKeyNotPressed (fieldX w)) ∧
  ∀ (s : State) (x k : Nib), k.toNat = (s.reg x).toNat % 16 →
    (∃ t, exec (.skipKeyPressed x) s = .next t ∧
      t.pc.toNat = (if s.key k = true then (s.pc.toNat + 2) % 65536 else s.pc.toNat) ∧
      Untouched { pc := s.key k = true } s t) ∧
    (∃ t, exec (.skipKeyNotPressed x) s = .next t ∧
      t.pc.toNat = (if s.key k = false then (s.pc.toNat + 2) % 65536 else s.pc.toNat) ∧
      Untouched { pc := s.key k = false } s t)

/-- load-delay (R172; opcode number: D5). -/
def Obligations.LoadDelayReadsTimer : Prop :=
  Selects 0xF0FF 0xF007 (fun w => .loadDelay (fieldX w)) ∧
  ∀ (s : State) (x : Nib), ∃ t, exec (.loadDelay x) s = .next t ∧ t.reg x = s.dt ∧
    Untouched { reg := fun r => r = x } s t

/-- wait-key (R173; opcode number: D5): the lowest pressed key, else `pc` goes back to this instruction; a whole waiting tick
leaves `pc` and every register as they were and counts the timers down. -/
def Obligations.WaitKeyTakesLowestKeyOrWaits : Prop :=
  Selects 0xF0FF 0xF00A (fun w => .waitKey (fieldX w)) ∧
  (∀ (s : State) (x k : Nib), s.key k = true → (∀ j : Nib, j.toNat < k.toNat → s.key j = false) →
    ∃ t, exec (.waitKey x) s = .next t ∧ (t.reg x).toNat = k.toNat ∧ Untouched { reg := fun r => r = x } s t) ∧
  (∀ (s : State) (x : Nib), (∀ k, s.key k = false) →
    ∃ t, exec (.waitKey x) s = .next t ∧ t.pc.toNat = (s.pc.toNat + 65536 - 2) % 65536 ∧
      Untouched { pc := True } s t) ∧
  (∀ (s : State) (x : Nib) (rnd : Byte), s.fault = .none → decodeWord s.fetchWord = .waitKey x →
    (∀ k, s.key k = false) → ∃ t, tick rnd s = .next t ∧ t.pc = s.pc ∧ (∀ r, t.reg r = s.reg r) ∧
      t.dt.toNat = s.dt.toNat - 1 ∧ t.st.toNat = s.st.toNat - 1)

/-- set-delay and set-sound (R174, R175; opcode numbers: D5): the timer receives the register; the tick's countdown, which
follows, is in `TimersCountDownEveryTick`. -/
def Obligations.SetTimersCopyRegister : Prop :=
  Selects 0xF0FF 0xF015 (fun w => .setDelay (fieldX w)) ∧
  Selects 0xF0FF 0xF018 (fun w => .setSound (fieldX w)) ∧
  ∀ (s : State) (x : Nib),
    (∃ t, exec (.setDelay x) s = .next t ∧ t.dt = s.reg x ∧ Untouched { dt := True } s t) ∧
    (∃ t, exec (.setSound x) s = .next t ∧ t.st = s.reg x ∧ Untouched { st := True } s t)

/-! ### The invariant over every operation of the host -/

/-- Every operation of the host keeps the invariant, from every state that meets it: reset, load of any image, setKeys and
a tick with any random byte (R6, R30).  A latched fault's `sp` rests on D8 (log entry 9), the memory's canonical form is
the model's own (log entry 4), and that a refused load changes nothing rests on D18 (log entry 18). -/
def Obligations.HostOperationsKeepInvariant : Prop :=
  ∀ (o : HostOp) (s t : State), s.Inv → o.apply s = .next t → t.Inv
end

