-- ==== Sys2Proof/Laws/Decode.lean ====
section
/-! SUPPORT. What a mask and match of 30_encoding R75 say about the dispatch keys of a word. -/

namespace Sys2Proof

/-- The family of a masked word, for a mask that keeps the top nibble. -/
theorem fieldF_and (w m : Word) (hm : fieldF m = 0xF) : fieldF (w &&& m) = fieldF w := by
  have h : fieldF (w &&& m) = fieldF w &&& fieldF m := BitVec.extractLsb'_and
  rw [h, hm]
  exact BitVec.and_allOnes

/-- The low nibble of a masked word, for a mask that keeps it. -/
theorem fieldN_and (w m : Word) (hm : fieldN m = 0xF) : fieldN (w &&& m) = fieldN w := by
  have h : fieldN (w &&& m) = fieldN w &&& fieldN m := BitVec.extractLsb'_and
  rw [h, hm]
  exact BitVec.and_allOnes

/-- The low byte of a masked word, for a mask that keeps it. -/
theorem fieldKK_and (w m : Word) (hm : fieldKK m = 0xFF) : fieldKK (w &&& m) = fieldKK w := by
  have h : fieldKK (w &&& m) = fieldKK w &&& fieldKK m := BitVec.extractLsb'_and
  rw [h, hm]
  exact BitVec.and_allOnes

/-- A word that matches a row has the row's family. -/
theorem fieldF_of_match {w m c : Word} (hm : fieldF m = 0xF) (h : w &&& m = c) : fieldF w = fieldF c := by
  rw [← h, fieldF_and w m hm]

/-- A word that matches a row keyed on the low nibble has the row's low nibble. -/
theorem fieldN_of_match {w m c : Word} (hm : fieldN m = 0xF) (h : w &&& m = c) : fieldN w = fieldN c := by
  rw [← h, fieldN_and w m hm]

/-- A word that matches a row keyed on the low byte has the row's low byte. -/
theorem fieldKK_of_match {w m c : Word} (hm : fieldKK m = 0xFF) (h : w &&& m = c) : fieldKK w = fieldKK c := by
  rw [← h, fieldKK_and w m hm]

/-- A word is its four nibbles. -/
theorem word_nibbles (w : Word) : w = wordXYN (fieldF w) (fieldX w) (fieldY w) (fieldN w) := by
  apply BitVec.eq_of_getLsbD_eq
  intro i hi
  simp only [wordXYN, fieldF, fieldX, fieldY, fieldN, BitVec.getLsbD_append, BitVec.getLsbD_extractLsb']
  interval_cases i <;> simp

/-- The fields of a word laid out as four nibbles. -/
@[simp] theorem fieldF_wordXYN (f x y n : Nib) : fieldF (wordXYN f x y n) = f := by
  ext i hi
  simp only [fieldF, wordXYN, BitVec.getElem_extractLsb', BitVec.getLsbD_append]
  simp [show ¬ 12 + i < 4 by omega, show ¬ 12 + i - 4 < 4 by omega, show ¬ 12 + i - 4 - 4 < 4 by omega,
    show 12 + i - 4 - 4 - 4 = i by omega, hi]

@[simp] theorem fieldX_wordXYN (f x y n : Nib) : fieldX (wordXYN f x y n) = x := by
  ext i hi
  simp only [fieldX, wordXYN, BitVec.getElem_extractLsb', BitVec.getLsbD_append]
  simp [show ¬ 8 + i < 4 by omega, show ¬ 8 + i - 4 < 4 by omega, show 8 + i - 4 - 4 = i by omega, hi]

@[simp] theorem fieldY_wordXYN (f x y n : Nib) : fieldY (wordXYN f x y n) = y := by
  ext i hi
  simp only [fieldY, wordXYN, BitVec.getElem_extractLsb', BitVec.getLsbD_append]
  simp [show ¬ 4 + i < 4 by omega, show 4 + i - 4 = i by omega, hi]

@[simp] theorem fieldN_wordXYN (f x y n : Nib) : fieldN (wordXYN f x y n) = n := by
  ext i hi
  simp only [fieldN, wordXYN, BitVec.getElem_extractLsb', BitVec.getLsbD_append]
  simp [hi]

/-- The fields of a word laid out as family, register and byte. -/
@[simp] theorem fieldF_wordXK (f x : Nib) (kk : Byte) : fieldF (wordXK f x kk) = f := by
  ext i hi
  simp only [fieldF, wordXK, BitVec.getElem_extractLsb', BitVec.getLsbD_append]
  simp [show ¬ 12 + i < 8 by omega, show ¬ 12 + i - 8 < 4 by omega, show 12 + i - 8 - 4 = i by omega, hi]

@[simp] theorem fieldX_wordXK (f x : Nib) (kk : Byte) : fieldX (wordXK f x kk) = x := by
  ext i hi
  simp only [fieldX, wordXK, BitVec.getElem_extractLsb', BitVec.getLsbD_append]
  simp [show ¬ 8 + i < 8 by omega, show 8 + i - 8 = i by omega, hi]

@[simp] theorem fieldKK_wordXK (f x : Nib) (kk : Byte) : fieldKK (wordXK f x kk) = kk := by
  ext i hi
  simp only [fieldKK, wordXK, BitVec.getElem_extractLsb', BitVec.getLsbD_append]
  simp [hi]

/-- The fields of a word laid out as family and address. -/
@[simp] theorem fieldF_wordA (f : Nib) (nnn : Addr) : fieldF (wordA f nnn) = f := by
  ext i hi
  simp only [fieldF, wordA, BitVec.getElem_extractLsb', BitVec.getLsbD_append]
  simp [show ¬ 12 + i < 12 by omega, show 12 + i - 12 = i by omega, hi]

@[simp] theorem fieldNNN_wordA (f : Nib) (nnn : Addr) : fieldNNN (wordA f nnn) = nnn := by
  ext i hi
  simp only [fieldNNN, wordA, BitVec.getElem_extractLsb', BitVec.getLsbD_append]
  simp [hi]

/-- The two bytes of a word make the word again. -/
@[simp] theorem ofBytes_hi_lo (w : Word) : Word.ofBytes w.hi w.lo = w := by
  apply BitVec.eq_of_getLsbD_eq
  intro i hi
  simp only [Word.ofBytes, Word.hi, Word.lo, BitVec.getLsbD_append, BitVec.getLsbD_extractLsb']
  interval_cases i <;> simp

/-- A two-byte number is high byte times 256 plus low byte (R54). -/
theorem ofBytes_toNat (hi lo : Byte) : (Word.ofBytes hi lo).toNat = hi.toNat * 256 + lo.toNat := by
  simp only [Word.ofBytes, BitVec.toNat_append]
  rw [← Nat.shiftLeft_add_eq_or_of_lt lo.isLt, Nat.shiftLeft_eq]

end Sys2Proof
end

