-- ==== Sys2Proof/Laws/State.lean ====
section
/-! SUPPORT. One lemma per field and accessor for every state update, so that no later proof unfolds a record update. -/

namespace Sys2Proof.Machine

variable (s : State)

@[simp] theorem setReg_mem (r : Nib) (v : Byte) : (s.setReg r v).mem = s.mem := rfl
@[simp] theorem setReg_I (r : Nib) (v : Byte) : (s.setReg r v).I = s.I := rfl
@[simp] theorem setReg_pc (r : Nib) (v : Byte) : (s.setReg r v).pc = s.pc := rfl
@[simp] theorem setReg_sp (r : Nib) (v : Byte) : (s.setReg r v).sp = s.sp := rfl
@[simp] theorem setReg_stack (r : Nib) (v : Byte) : (s.setReg r v).stack = s.stack := rfl
@[simp] theorem setReg_dt (r : Nib) (v : Byte) : (s.setReg r v).dt = s.dt := rfl
@[simp] theorem setReg_st (r : Nib) (v : Byte) : (s.setReg r v).st = s.st := rfl
@[simp] theorem setReg_video (r : Nib) (v : Byte) : (s.setReg r v).video = s.video := rfl
@[simp] theorem setReg_keys (r : Nib) (v : Byte) : (s.setReg r v).keys = s.keys := rfl
@[simp] theorem setReg_ir (r : Nib) (v : Byte) : (s.setReg r v).ir = s.ir := rfl
@[simp] theorem setReg_fault (r : Nib) (v : Byte) : (s.setReg r v).fault = s.fault := rfl
@[simp] theorem setReg_cfg (r : Nib) (v : Byte) : (s.setReg r v).cfg = s.cfg := rfl
@[simp] theorem setReg_rnd (r : Nib) (v : Byte) : (s.setReg r v).rnd = s.rnd := rfl
@[simp] theorem setReg_draws (r : Nib) (v : Byte) : (s.setReg r v).draws = s.draws := rfl
@[simp] theorem setReg_slot (r : Nib) (v : Byte) (j : Fin 16) : (s.setReg r v).slot j = s.slot j := rfl
@[simp] theorem setReg_pixel (r : Nib) (v : Byte) (qx : Fin 64) (qy : Fin 32) : (s.setReg r v).pixel qx qy = s.pixel qx qy := rfl
@[simp] theorem setReg_key (r : Nib) (v : Byte) (j : Nib) : (s.setReg r v).key j = s.key j := rfl
@[simp] theorem setReg_readMem (r : Nib) (v : Byte) (c : Nat) : (s.setReg r v).readMem c = s.readMem c := rfl
@[simp] theorem setReg_effAddr (r : Nib) (v : Byte) (i : Nat) : (s.setReg r v).effAddr i = s.effAddr i := rfl

@[simp] theorem setIndex_mem (v : Word) : (s.setIndex v).mem = s.mem := rfl
@[simp] theorem setIndex_x (v : Word) : (s.setIndex v).x = s.x := rfl
@[simp] theorem setIndex_I (v : Word) : (s.setIndex v).I = v := rfl
@[simp] theorem setIndex_pc (v : Word) : (s.setIndex v).pc = s.pc := rfl
@[simp] theorem setIndex_sp (v : Word) : (s.setIndex v).sp = s.sp := rfl
@[simp] theorem setIndex_stack (v : Word) : (s.setIndex v).stack = s.stack := rfl
@[simp] theorem setIndex_dt (v : Word) : (s.setIndex v).dt = s.dt := rfl
@[simp] theorem setIndex_st (v : Word) : (s.setIndex v).st = s.st := rfl
@[simp] theorem setIndex_video (v : Word) : (s.setIndex v).video = s.video := rfl
@[simp] theorem setIndex_keys (v : Word) : (s.setIndex v).keys = s.keys := rfl
@[simp] theorem setIndex_ir (v : Word) : (s.setIndex v).ir = s.ir := rfl
@[simp] theorem setIndex_fault (v : Word) : (s.setIndex v).fault = s.fault := rfl
@[simp] theorem setIndex_cfg (v : Word) : (s.setIndex v).cfg = s.cfg := rfl
@[simp] theorem setIndex_rnd (v : Word) : (s.setIndex v).rnd = s.rnd := rfl
@[simp] theorem setIndex_draws (v : Word) : (s.setIndex v).draws = s.draws := rfl
@[simp] theorem setIndex_reg (v : Word) (q : Nib) : (s.setIndex v).reg q = s.reg q := rfl
@[simp] theorem setIndex_slot (v : Word) (j : Fin 16) : (s.setIndex v).slot j = s.slot j := rfl
@[simp] theorem setIndex_pixel (v : Word) (qx : Fin 64) (qy : Fin 32) : (s.setIndex v).pixel qx qy = s.pixel qx qy := rfl
@[simp] theorem setIndex_key (v : Word) (j : Nib) : (s.setIndex v).key j = s.key j := rfl
@[simp] theorem setIndex_readMem (v : Word) (c : Nat) : (s.setIndex v).readMem c = s.readMem c := rfl

@[simp] theorem setPc_mem (v : Word) : (s.setPc v).mem = s.mem := rfl
@[simp] theorem setPc_x (v : Word) : (s.setPc v).x = s.x := rfl
@[simp] theorem setPc_I (v : Word) : (s.setPc v).I = s.I := rfl
@[simp] theorem setPc_pc (v : Word) : (s.setPc v).pc = v := rfl
@[simp] theorem setPc_sp (v : Word) : (s.setPc v).sp = s.sp := rfl
@[simp] theorem setPc_stack (v : Word) : (s.setPc v).stack = s.stack := rfl
@[simp] theorem setPc_dt (v : Word) : (s.setPc v).dt = s.dt := rfl
@[simp] theorem setPc_st (v : Word) : (s.setPc v).st = s.st := rfl
@[simp] theorem setPc_video (v : Word) : (s.setPc v).video = s.video := rfl
@[simp] theorem setPc_keys (v : Word) : (s.setPc v).keys = s.keys := rfl
@[simp] theorem setPc_ir (v : Word) : (s.setPc v).ir = s.ir := rfl
@[simp] theorem setPc_fault (v : Word) : (s.setPc v).fault = s.fault := rfl
@[simp] theorem setPc_cfg (v : Word) : (s.setPc v).cfg = s.cfg := rfl
@[simp] theorem setPc_rnd (v : Word) : (s.setPc v).rnd = s.rnd := rfl
@[simp] theorem setPc_draws (v : Word) : (s.setPc v).draws = s.draws := rfl
@[simp] theorem setPc_reg (v : Word) (q : Nib) : (s.setPc v).reg q = s.reg q := rfl
@[simp] theorem setPc_slot (v : Word) (j : Fin 16) : (s.setPc v).slot j = s.slot j := rfl
@[simp] theorem setPc_pixel (v : Word) (qx : Fin 64) (qy : Fin 32) : (s.setPc v).pixel qx qy = s.pixel qx qy := rfl
@[simp] theorem setPc_key (v : Word) (j : Nib) : (s.setPc v).key j = s.key j := rfl
@[simp] theorem setPc_readMem (v : Word) (c : Nat) : (s.setPc v).readMem c = s.readMem c := rfl
@[simp] theorem setPc_effAddr (v : Word) (i : Nat) : (s.setPc v).effAddr i = s.effAddr i := rfl

@[simp] theorem setSp_mem (v : Byte) : (s.setSp v).mem = s.mem := rfl
@[simp] theorem setSp_x (v : Byte) : (s.setSp v).x = s.x := rfl
@[simp] theorem setSp_I (v : Byte) : (s.setSp v).I = s.I := rfl
@[simp] theorem setSp_pc (v : Byte) : (s.setSp v).pc = s.pc := rfl
@[simp] theorem setSp_sp (v : Byte) : (s.setSp v).sp = v := rfl
@[simp] theorem setSp_stack (v : Byte) : (s.setSp v).stack = s.stack := rfl
@[simp] theorem setSp_dt (v : Byte) : (s.setSp v).dt = s.dt := rfl
@[simp] theorem setSp_st (v : Byte) : (s.setSp v).st = s.st := rfl
@[simp] theorem setSp_video (v : Byte) : (s.setSp v).video = s.video := rfl
@[simp] theorem setSp_keys (v : Byte) : (s.setSp v).keys = s.keys := rfl
@[simp] theorem setSp_ir (v : Byte) : (s.setSp v).ir = s.ir := rfl
@[simp] theorem setSp_fault (v : Byte) : (s.setSp v).fault = s.fault := rfl
@[simp] theorem setSp_cfg (v : Byte) : (s.setSp v).cfg = s.cfg := rfl
@[simp] theorem setSp_rnd (v : Byte) : (s.setSp v).rnd = s.rnd := rfl
@[simp] theorem setSp_draws (v : Byte) : (s.setSp v).draws = s.draws := rfl
@[simp] theorem setSp_reg (v : Byte) (q : Nib) : (s.setSp v).reg q = s.reg q := rfl
@[simp] theorem setSp_slot (v : Byte) (j : Fin 16) : (s.setSp v).slot j = s.slot j := rfl
@[simp] theorem setSp_pixel (v : Byte) (qx : Fin 64) (qy : Fin 32) : (s.setSp v).pixel qx qy = s.pixel qx qy := rfl
@[simp] theorem setSp_key (v : Byte) (j : Nib) : (s.setSp v).key j = s.key j := rfl
@[simp] theorem setSp_readMem (v : Byte) (c : Nat) : (s.setSp v).readMem c = s.readMem c := rfl
@[simp] theorem setSp_effAddr (v : Byte) (i : Nat) : (s.setSp v).effAddr i = s.effAddr i := rfl

@[simp] theorem setDelay_mem (v : Byte) : (s.setDelay v).mem = s.mem := rfl
@[simp] theorem setDelay_x (v : Byte) : (s.setDelay v).x = s.x := rfl
@[simp] theorem setDelay_I (v : Byte) : (s.setDelay v).I = s.I := rfl
@[simp] theorem setDelay_pc (v : Byte) : (s.setDelay v).pc = s.pc := rfl
@[simp] theorem setDelay_sp (v : Byte) : (s.setDelay v).sp = s.sp := rfl
@[simp] theorem setDelay_stack (v : Byte) : (s.setDelay v).stack = s.stack := rfl
@[simp] theorem setDelay_dt (v : Byte) : (s.setDelay v).dt = v := rfl
@[simp] theorem setDelay_st (v : Byte) : (s.setDelay v).st = s.st := rfl
@[simp] theorem setDelay_video (v : Byte) : (s.setDelay v).video = s.video := rfl
@[simp] theorem setDelay_keys (v : Byte) : (s.setDelay v).keys = s.keys := rfl
@[simp] theorem setDelay_ir (v : Byte) : (s.setDelay v).ir = s.ir := rfl
@[simp] theorem setDelay_fault (v : Byte) : (s.setDelay v).fault = s.fault := rfl
@[simp] theorem setDelay_cfg (v : Byte) : (s.setDelay v).cfg = s.cfg := rfl
@[simp] theorem setDelay_rnd (v : Byte) : (s.setDelay v).rnd = s.rnd := rfl
@[simp] theorem setDelay_draws (v : Byte) : (s.setDelay v).draws = s.draws := rfl
@[simp] theorem setDelay_reg (v : Byte) (q : Nib) : (s.setDelay v).reg q = s.reg q := rfl
@[simp] theorem setDelay_slot (v : Byte) (j : Fin 16) : (s.setDelay v).slot j = s.slot j := rfl
@[simp] theorem setDelay_pixel (v : Byte) (qx : Fin 64) (qy : Fin 32) : (s.setDelay v).pixel qx qy = s.pixel qx qy := rfl
@[simp] theorem setDelay_key (v : Byte) (j : Nib) : (s.setDelay v).key j = s.key j := rfl
@[simp] theorem setDelay_readMem (v : Byte) (c : Nat) : (s.setDelay v).readMem c = s.readMem c := rfl
@[simp] theorem setDelay_effAddr (v : Byte) (i : Nat) : (s.setDelay v).effAddr i = s.effAddr i := rfl

@[simp] theorem setSound_mem (v : Byte) : (s.setSound v).mem = s.mem := rfl
@[simp] theorem setSound_x (v : Byte) : (s.setSound v).x = s.x := rfl
@[simp] theorem setSound_I (v : Byte) : (s.setSound v).I = s.I := rfl
@[simp] theorem setSound_pc (v : Byte) : (s.setSound v).pc = s.pc := rfl
@[simp] theorem setSound_sp (v : Byte) : (s.setSound v).sp = s.sp := rfl
@[simp] theorem setSound_stack (v : Byte) : (s.setSound v).stack = s.stack := rfl
@[simp] theorem setSound_dt (v : Byte) : (s.setSound v).dt = s.dt := rfl
@[simp] theorem setSound_st (v : Byte) : (s.setSound v).st = v := rfl
@[simp] theorem setSound_video (v : Byte) : (s.setSound v).video = s.video := rfl
@[simp] theorem setSound_keys (v : Byte) : (s.setSound v).keys = s.keys := rfl
@[simp] theorem setSound_ir (v : Byte) : (s.setSound v).ir = s.ir := rfl
@[simp] theorem setSound_fault (v : Byte) : (s.setSound v).fault = s.fault := rfl
@[simp] theorem setSound_cfg (v : Byte) : (s.setSound v).cfg = s.cfg := rfl
@[simp] theorem setSound_rnd (v : Byte) : (s.setSound v).rnd = s.rnd := rfl
@[simp] theorem setSound_draws (v : Byte) : (s.setSound v).draws = s.draws := rfl
@[simp] theorem setSound_reg (v : Byte) (q : Nib) : (s.setSound v).reg q = s.reg q := rfl
@[simp] theorem setSound_slot (v : Byte) (j : Fin 16) : (s.setSound v).slot j = s.slot j := rfl
@[simp] theorem setSound_pixel (v : Byte) (qx : Fin 64) (qy : Fin 32) : (s.setSound v).pixel qx qy = s.pixel qx qy := rfl
@[simp] theorem setSound_key (v : Byte) (j : Nib) : (s.setSound v).key j = s.key j := rfl
@[simp] theorem setSound_readMem (v : Byte) (c : Nat) : (s.setSound v).readMem c = s.readMem c := rfl
@[simp] theorem setSound_effAddr (v : Byte) (i : Nat) : (s.setSound v).effAddr i = s.effAddr i := rfl

@[simp] theorem setSlot_mem (k : Fin 16) (v : Word) : (s.setSlot k v).mem = s.mem := rfl
@[simp] theorem setSlot_x (k : Fin 16) (v : Word) : (s.setSlot k v).x = s.x := rfl
@[simp] theorem setSlot_I (k : Fin 16) (v : Word) : (s.setSlot k v).I = s.I := rfl
@[simp] theorem setSlot_pc (k : Fin 16) (v : Word) : (s.setSlot k v).pc = s.pc := rfl
@[simp] theorem setSlot_sp (k : Fin 16) (v : Word) : (s.setSlot k v).sp = s.sp := rfl
@[simp] theorem setSlot_dt (k : Fin 16) (v : Word) : (s.setSlot k v).dt = s.dt := rfl
@[simp] theorem setSlot_st (k : Fin 16) (v : Word) : (s.setSlot k v).st = s.st := rfl
@[simp] theorem setSlot_video (k : Fin 16) (v : Word) : (s.setSlot k v).video = s.video := rfl
@[simp] theorem setSlot_keys (k : Fin 16) (v : Word) : (s.setSlot k v).keys = s.keys := rfl
@[simp] theorem setSlot_ir (k : Fin 16) (v : Word) : (s.setSlot k v).ir = s.ir := rfl
@[simp] theorem setSlot_fault (k : Fin 16) (v : Word) : (s.setSlot k v).fault = s.fault := rfl
@[simp] theorem setSlot_cfg (k : Fin 16) (v : Word) : (s.setSlot k v).cfg = s.cfg := rfl
@[simp] theorem setSlot_rnd (k : Fin 16) (v : Word) : (s.setSlot k v).rnd = s.rnd := rfl
@[simp] theorem setSlot_draws (k : Fin 16) (v : Word) : (s.setSlot k v).draws = s.draws := rfl
@[simp] theorem setSlot_reg (k : Fin 16) (v : Word) (q : Nib) : (s.setSlot k v).reg q = s.reg q := rfl
@[simp] theorem setSlot_pixel (k : Fin 16) (v : Word) (qx : Fin 64) (qy : Fin 32) : (s.setSlot k v).pixel qx qy = s.pixel qx qy := rfl
@[simp] theorem setSlot_key (k : Fin 16) (v : Word) (j : Nib) : (s.setSlot k v).key j = s.key j := rfl
@[simp] theorem setSlot_readMem (k : Fin 16) (v : Word) (c : Nat) : (s.setSlot k v).readMem c = s.readMem c := rfl
@[simp] theorem setSlot_effAddr (k : Fin 16) (v : Word) (i : Nat) : (s.setSlot k v).effAddr i = s.effAddr i := rfl

@[simp] theorem countDraw_mem : (s.countDraw).mem = s.mem := rfl
@[simp] theorem countDraw_x : (s.countDraw).x = s.x := rfl
@[simp] theorem countDraw_I : (s.countDraw).I = s.I := rfl
@[simp] theorem countDraw_pc : (s.countDraw).pc = s.pc := rfl
@[simp] theorem countDraw_sp : (s.countDraw).sp = s.sp := rfl
@[simp] theorem countDraw_stack : (s.countDraw).stack = s.stack := rfl
@[simp] theorem countDraw_dt : (s.countDraw).dt = s.dt := rfl
@[simp] theorem countDraw_st : (s.countDraw).st = s.st := rfl
@[simp] theorem countDraw_video : (s.countDraw).video = s.video := rfl
@[simp] theorem countDraw_keys : (s.countDraw).keys = s.keys := rfl
@[simp] theorem countDraw_ir : (s.countDraw).ir = s.ir := rfl
@[simp] theorem countDraw_fault : (s.countDraw).fault = s.fault := rfl
@[simp] theorem countDraw_cfg : (s.countDraw).cfg = s.cfg := rfl
@[simp] theorem countDraw_rnd : (s.countDraw).rnd = s.rnd := rfl
@[simp] theorem countDraw_draws : (s.countDraw).draws = s.draws + 1 := rfl
@[simp] theorem countDraw_reg (q : Nib) : (s.countDraw).reg q = s.reg q := rfl
@[simp] theorem countDraw_slot (j : Fin 16) : (s.countDraw).slot j = s.slot j := rfl
@[simp] theorem countDraw_pixel (qx : Fin 64) (qy : Fin 32) : (s.countDraw).pixel qx qy = s.pixel qx qy := rfl
@[simp] theorem countDraw_key (j : Nib) : (s.countDraw).key j = s.key j := rfl
@[simp] theorem countDraw_readMem (c : Nat) : (s.countDraw).readMem c = s.readMem c := rfl
@[simp] theorem countDraw_effAddr (i : Nat) : (s.countDraw).effAddr i = s.effAddr i := rfl

@[simp] theorem setPixel_mem (px : Fin 64) (py : Fin 32) (v : Bool) : (s.setPixel px py v).mem = s.mem := rfl
@[simp] theorem setPixel_x (px : Fin 64) (py : Fin 32) (v : Bool) : (s.setPixel px py v).x = s.x := rfl
@[simp] theorem setPixel_I (px : Fin 64) (py : Fin 32) (v : Bool) : (s.setPixel px py v).I = s.I := rfl
@[simp] theorem setPixel_pc (px : Fin 64) (py : Fin 32) (v : Bool) : (s.setPixel px py v).pc = s.pc := rfl
@[simp] theorem setPixel_sp (px : Fin 64) (py : Fin 32) (v : Bool) : (s.setPixel px py v).sp = s.sp := rfl
@[simp] theorem setPixel_stack (px : Fin 64) (py : Fin 32) (v : Bool) : (s.setPixel px py v).stack = s.stack := rfl
@[simp] theorem setPixel_dt (px : Fin 64) (py : Fin 32) (v : Bool) : (s.setPixel px py v).dt = s.dt := rfl
@[simp] theorem setPixel_st (px : Fin 64) (py : Fin 32) (v : Bool) : (s.setPixel px py v).st = s.st := rfl
@[simp] theorem setPixel_keys (px : Fin 64) (py : Fin 32) (v : Bool) : (s.setPixel px py v).keys = s.keys := rfl
@[simp] theorem setPixel_ir (px : Fin 64) (py : Fin 32) (v : Bool) : (s.setPixel px py v).ir = s.ir := rfl
@[simp] theorem setPixel_fault (px : Fin 64) (py : Fin 32) (v : Bool) : (s.setPixel px py v).fault = s.fault := rfl
@[simp] theorem setPixel_cfg (px : Fin 64) (py : Fin 32) (v : Bool) : (s.setPixel px py v).cfg = s.cfg := rfl
@[simp] theorem setPixel_rnd (px : Fin 64) (py : Fin 32) (v : Bool) : (s.setPixel px py v).rnd = s.rnd := rfl
@[simp] theorem setPixel_draws (px : Fin 64) (py : Fin 32) (v : Bool) : (s.setPixel px py v).draws = s.draws := rfl
@[simp] theorem setPixel_reg (px : Fin 64) (py : Fin 32) (v : Bool) (q : Nib) : (s.setPixel px py v).reg q = s.reg q := rfl
@[simp] theorem setPixel_slot (px : Fin 64) (py : Fin 32) (v : Bool) (j : Fin 16) : (s.setPixel px py v).slot j = s.slot j := rfl
@[simp] theorem setPixel_key (px : Fin 64) (py : Fin 32) (v : Bool) (j : Nib) : (s.setPixel px py v).key j = s.key j := rfl
@[simp] theorem setPixel_readMem (px : Fin 64) (py : Fin 32) (v : Bool) (c : Nat) : (s.setPixel px py v).readMem c = s.readMem c := rfl
@[simp] theorem setPixel_effAddr (px : Fin 64) (py : Fin 32) (v : Bool) (i : Nat) : (s.setPixel px py v).effAddr i = s.effAddr i := rfl

@[simp] theorem clearVideo_mem : (s.clearVideo).mem = s.mem := rfl
@[simp] theorem clearVideo_x : (s.clearVideo).x = s.x := rfl
@[simp] theorem clearVideo_I : (s.clearVideo).I = s.I := rfl
@[simp] theorem clearVideo_pc : (s.clearVideo).pc = s.pc := rfl
@[simp] theorem clearVideo_sp : (s.clearVideo).sp = s.sp := rfl
@[simp] theorem clearVideo_stack : (s.clearVideo).stack = s.stack := rfl
@[simp] theorem clearVideo_dt : (s.clearVideo).dt = s.dt := rfl
@[simp] theorem clearVideo_st : (s.clearVideo).st = s.st := rfl
@[simp] theorem clearVideo_keys : (s.clearVideo).keys = s.keys := rfl
@[simp] theorem clearVideo_ir : (s.clearVideo).ir = s.ir := rfl
@[simp] theorem clearVideo_fault : (s.clearVideo).fault = s.fault := rfl
@[simp] theorem clearVideo_cfg : (s.clearVideo).cfg = s.cfg := rfl
@[simp] theorem clearVideo_rnd : (s.clearVideo).rnd = s.rnd := rfl
@[simp] theorem clearVideo_draws : (s.clearVideo).draws = s.draws := rfl
@[simp] theorem clearVideo_reg (q : Nib) : (s.clearVideo).reg q = s.reg q := rfl
@[simp] theorem clearVideo_slot (j : Fin 16) : (s.clearVideo).slot j = s.slot j := rfl
@[simp] theorem clearVideo_key (j : Nib) : (s.clearVideo).key j = s.key j := rfl
@[simp] theorem clearVideo_readMem (c : Nat) : (s.clearVideo).readMem c = s.readMem c := rfl
@[simp] theorem clearVideo_effAddr (i : Nat) : (s.clearVideo).effAddr i = s.effAddr i := rfl

@[simp] theorem writeMem_x (a : Nat) (v : Byte) : (s.writeMem a v).x = s.x := rfl
@[simp] theorem writeMem_I (a : Nat) (v : Byte) : (s.writeMem a v).I = s.I := rfl
@[simp] theorem writeMem_pc (a : Nat) (v : Byte) : (s.writeMem a v).pc = s.pc := rfl
@[simp] theorem writeMem_sp (a : Nat) (v : Byte) : (s.writeMem a v).sp = s.sp := rfl
@[simp] theorem writeMem_stack (a : Nat) (v : Byte) : (s.writeMem a v).stack = s.stack := rfl
@[simp] theorem writeMem_dt (a : Nat) (v : Byte) : (s.writeMem a v).dt = s.dt := rfl
@[simp] theorem writeMem_st (a : Nat) (v : Byte) : (s.writeMem a v).st = s.st := rfl
@[simp] theorem writeMem_video (a : Nat) (v : Byte) : (s.writeMem a v).video = s.video := rfl
@[simp] theorem writeMem_keys (a : Nat) (v : Byte) : (s.writeMem a v).keys = s.keys := rfl
@[simp] theorem writeMem_ir (a : Nat) (v : Byte) : (s.writeMem a v).ir = s.ir := rfl
@[simp] theorem writeMem_fault (a : Nat) (v : Byte) : (s.writeMem a v).fault = s.fault := rfl
@[simp] theorem writeMem_cfg (a : Nat) (v : Byte) : (s.writeMem a v).cfg = s.cfg := rfl
@[simp] theorem writeMem_rnd (a : Nat) (v : Byte) : (s.writeMem a v).rnd = s.rnd := rfl
@[simp] theorem writeMem_draws (a : Nat) (v : Byte) : (s.writeMem a v).draws = s.draws := rfl
@[simp] theorem writeMem_reg (a : Nat) (v : Byte) (q : Nib) : (s.writeMem a v).reg q = s.reg q := rfl
@[simp] theorem writeMem_slot (a : Nat) (v : Byte) (j : Fin 16) : (s.writeMem a v).slot j = s.slot j := rfl
@[simp] theorem writeMem_pixel (a : Nat) (v : Byte) (qx : Fin 64) (qy : Fin 32) : (s.writeMem a v).pixel qx qy = s.pixel qx qy := rfl
@[simp] theorem writeMem_key (a : Nat) (v : Byte) (j : Nib) : (s.writeMem a v).key j = s.key j := rfl
@[simp] theorem writeMem_effAddr (a : Nat) (v : Byte) (i : Nat) : (s.writeMem a v).effAddr i = s.effAddr i := rfl

@[simp] theorem raise_mem (f : FaultLatch) : (s.raise f).mem = s.mem := rfl
@[simp] theorem raise_x (f : FaultLatch) : (s.raise f).x = s.x := rfl
@[simp] theorem raise_I (f : FaultLatch) : (s.raise f).I = s.I := rfl
@[simp] theorem raise_pc (f : FaultLatch) : (s.raise f).pc = s.pc := rfl
@[simp] theorem raise_sp (f : FaultLatch) : (s.raise f).sp = s.sp := rfl
@[simp] theorem raise_stack (f : FaultLatch) : (s.raise f).stack = s.stack := rfl
@[simp] theorem raise_dt (f : FaultLatch) : (s.raise f).dt = s.dt := rfl
@[simp] theorem raise_st (f : FaultLatch) : (s.raise f).st = s.st := rfl
@[simp] theorem raise_video (f : FaultLatch) : (s.raise f).video = s.video := rfl
@[simp] theorem raise_keys (f : FaultLatch) : (s.raise f).keys = s.keys := rfl
@[simp] theorem raise_ir (f : FaultLatch) : (s.raise f).ir = s.ir := rfl
@[simp] theorem raise_fault (f : FaultLatch) : (s.raise f).fault = f := rfl
@[simp] theorem raise_cfg (f : FaultLatch) : (s.raise f).cfg = s.cfg := rfl
@[simp] theorem raise_rnd (f : FaultLatch) : (s.raise f).rnd = s.rnd := rfl
@[simp] theorem raise_draws (f : FaultLatch) : (s.raise f).draws = s.draws := rfl
@[simp] theorem raise_reg (f : FaultLatch) (q : Nib) : (s.raise f).reg q = s.reg q := rfl
@[simp] theorem raise_slot (f : FaultLatch) (j : Fin 16) : (s.raise f).slot j = s.slot j := rfl
@[simp] theorem raise_pixel (f : FaultLatch) (qx : Fin 64) (qy : Fin 32) : (s.raise f).pixel qx qy = s.pixel qx qy := rfl
@[simp] theorem raise_key (f : FaultLatch) (j : Nib) : (s.raise f).key j = s.key j := rfl
@[simp] theorem raise_readMem (f : FaultLatch) (c : Nat) : (s.raise f).readMem c = s.readMem c := rfl
@[simp] theorem raise_effAddr (f : FaultLatch) (i : Nat) : (s.raise f).effAddr i = s.effAddr i := rfl

@[simp] theorem retreat_mem : (s.retreat).mem = s.mem := rfl
@[simp] theorem retreat_x : (s.retreat).x = s.x := rfl
@[simp] theorem retreat_I : (s.retreat).I = s.I := rfl
@[simp] theorem retreat_pc : (s.retreat).pc = s.pc - 2 := rfl
@[simp] theorem retreat_sp : (s.retreat).sp = s.sp := rfl
@[simp] theorem retreat_stack : (s.retreat).stack = s.stack := rfl
@[simp] theorem retreat_dt : (s.retreat).dt = s.dt := rfl
@[simp] theorem retreat_st : (s.retreat).st = s.st := rfl
@[simp] theorem retreat_video : (s.retreat).video = s.video := rfl
@[simp] theorem retreat_keys : (s.retreat).keys = s.keys := rfl
@[simp] theorem retreat_ir : (s.retreat).ir = s.ir := rfl
@[simp] theorem retreat_fault : (s.retreat).fault = s.fault := rfl
@[simp] theorem retreat_cfg : (s.retreat).cfg = s.cfg := rfl
@[simp] theorem retreat_rnd : (s.retreat).rnd = s.rnd := rfl
@[simp] theorem retreat_draws : (s.retreat).draws = s.draws := rfl
@[simp] theorem retreat_reg (q : Nib) : (s.retreat).reg q = s.reg q := rfl
@[simp] theorem retreat_slot (j : Fin 16) : (s.retreat).slot j = s.slot j := rfl
@[simp] theorem retreat_pixel (qx : Fin 64) (qy : Fin 32) : (s.retreat).pixel qx qy = s.pixel qx qy := rfl
@[simp] theorem retreat_key (j : Nib) : (s.retreat).key j = s.key j := rfl
@[simp] theorem retreat_readMem (c : Nat) : (s.retreat).readMem c = s.readMem c := rfl
@[simp] theorem retreat_effAddr (i : Nat) : (s.retreat).effAddr i = s.effAddr i := rfl

@[simp] theorem beginTick_mem (b : Byte) : (s.beginTick b).mem = s.mem := rfl
@[simp] theorem beginTick_x (b : Byte) : (s.beginTick b).x = s.x := rfl
@[simp] theorem beginTick_I (b : Byte) : (s.beginTick b).I = s.I := rfl
@[simp] theorem beginTick_pc (b : Byte) : (s.beginTick b).pc = s.pc + 2 := rfl
@[simp] theorem beginTick_sp (b : Byte) : (s.beginTick b).sp = s.sp := rfl
@[simp] theorem beginTick_stack (b : Byte) : (s.beginTick b).stack = s.stack := rfl
@[simp] theorem beginTick_dt (b : Byte) : (s.beginTick b).dt = s.dt := rfl
@[simp] theorem beginTick_st (b : Byte) : (s.beginTick b).st = s.st := rfl
@[simp] theorem beginTick_video (b : Byte) : (s.beginTick b).video = s.video := rfl
@[simp] theorem beginTick_keys (b : Byte) : (s.beginTick b).keys = s.keys := rfl
@[simp] theorem beginTick_ir (b : Byte) : (s.beginTick b).ir = s.fetchWord := rfl
@[simp] theorem beginTick_fault (b : Byte) : (s.beginTick b).fault = s.fault := rfl
@[simp] theorem beginTick_cfg (b : Byte) : (s.beginTick b).cfg = s.cfg := rfl
@[simp] theorem beginTick_rnd (b : Byte) : (s.beginTick b).rnd = b := rfl
@[simp] theorem beginTick_draws (b : Byte) : (s.beginTick b).draws = s.draws := rfl
@[simp] theorem beginTick_reg (b : Byte) (q : Nib) : (s.beginTick b).reg q = s.reg q := rfl
@[simp] theorem beginTick_slot (b : Byte) (j : Fin 16) : (s.beginTick b).slot j = s.slot j := rfl
@[simp] theorem beginTick_pixel (b : Byte) (qx : Fin 64) (qy : Fin 32) : (s.beginTick b).pixel qx qy = s.pixel qx qy := rfl
@[simp] theorem beginTick_key (b : Byte) (j : Nib) : (s.beginTick b).key j = s.key j := rfl
@[simp] theorem beginTick_readMem (b : Byte) (c : Nat) : (s.beginTick b).readMem c = s.readMem c := rfl
@[simp] theorem beginTick_effAddr (b : Byte) (i : Nat) : (s.beginTick b).effAddr i = s.effAddr i := rfl

@[simp] theorem timerTick_mem : (s.timerTick).mem = s.mem := rfl
@[simp] theorem timerTick_x : (s.timerTick).x = s.x := rfl
@[simp] theorem timerTick_I : (s.timerTick).I = s.I := rfl
@[simp] theorem timerTick_pc : (s.timerTick).pc = s.pc := rfl
@[simp] theorem timerTick_sp : (s.timerTick).sp = s.sp := rfl
@[simp] theorem timerTick_stack : (s.timerTick).stack = s.stack := rfl
@[simp] theorem timerTick_dt : (s.timerTick).dt = countDown s.dt := rfl
@[simp] theorem timerTick_st : (s.timerTick).st = countDown s.st := rfl
@[simp] theorem timerTick_video : (s.timerTick).video = s.video := rfl
@[simp] theorem timerTick_keys : (s.timerTick).keys = s.keys := rfl
@[simp] theorem timerTick_ir : (s.timerTick).ir = s.ir := rfl
@[simp] theorem timerTick_fault : (s.timerTick).fault = s.fault := rfl
@[simp] theorem timerTick_cfg : (s.timerTick).cfg = s.cfg := rfl
@[simp] theorem timerTick_rnd : (s.timerTick).rnd = s.rnd := rfl
@[simp] theorem timerTick_draws : (s.timerTick).draws = s.draws := rfl
@[simp] theorem timerTick_reg (q : Nib) : (s.timerTick).reg q = s.reg q := rfl
@[simp] theorem timerTick_slot (j : Fin 16) : (s.timerTick).slot j = s.slot j := rfl
@[simp] theorem timerTick_pixel (qx : Fin 64) (qy : Fin 32) : (s.timerTick).pixel qx qy = s.pixel qx qy := rfl
@[simp] theorem timerTick_key (j : Nib) : (s.timerTick).key j = s.key j := rfl
@[simp] theorem timerTick_readMem (c : Nat) : (s.timerTick).readMem c = s.readMem c := rfl
@[simp] theorem timerTick_effAddr (i : Nat) : (s.timerTick).effAddr i = s.effAddr i := rfl

@[simp] theorem setKeys_mem (k : Vector Bool 16) : (s.setKeys k).mem = s.mem := rfl
@[simp] theorem setKeys_x (k : Vector Bool 16) : (s.setKeys k).x = s.x := rfl
@[simp] theorem setKeys_I (k : Vector Bool 16) : (s.setKeys k).I = s.I := rfl
@[simp] theorem setKeys_pc (k : Vector Bool 16) : (s.setKeys k).pc = s.pc := rfl
@[simp] theorem setKeys_sp (k : Vector Bool 16) : (s.setKeys k).sp = s.sp := rfl
@[simp] theorem setKeys_stack (k : Vector Bool 16) : (s.setKeys k).stack = s.stack := rfl
@[simp] theorem setKeys_dt (k : Vector Bool 16) : (s.setKeys k).dt = s.dt := rfl
@[simp] theorem setKeys_st (k : Vector Bool 16) : (s.setKeys k).st = s.st := rfl
@[simp] theorem setKeys_video (k : Vector Bool 16) : (s.setKeys k).video = s.video := rfl
@[simp] theorem setKeys_keys (k : Vector Bool 16) : (s.setKeys k).keys = k := rfl
@[simp] theorem setKeys_ir (k : Vector Bool 16) : (s.setKeys k).ir = s.ir := rfl
@[simp] theorem setKeys_fault (k : Vector Bool 16) : (s.setKeys k).fault = s.fault := rfl
@[simp] theorem setKeys_cfg (k : Vector Bool 16) : (s.setKeys k).cfg = s.cfg := rfl
@[simp] theorem setKeys_rnd (k : Vector Bool 16) : (s.setKeys k).rnd = s.rnd := rfl
@[simp] theorem setKeys_draws (k : Vector Bool 16) : (s.setKeys k).draws = s.draws := rfl
@[simp] theorem setKeys_reg (k : Vector Bool 16) (q : Nib) : (s.setKeys k).reg q = s.reg q := rfl
@[simp] theorem setKeys_slot (k : Vector Bool 16) (j : Fin 16) : (s.setKeys k).slot j = s.slot j := rfl
@[simp] theorem setKeys_pixel (k : Vector Bool 16) (qx : Fin 64) (qy : Fin 32) : (s.setKeys k).pixel qx qy = s.pixel qx qy := rfl
@[simp] theorem setKeys_readMem (k : Vector Bool 16) (c : Nat) : (s.setKeys k).readMem c = s.readMem c := rfl
@[simp] theorem setKeys_effAddr (k : Vector Bool 16) (i : Nat) : (s.setKeys k).effAddr i = s.effAddr i := rfl

/-- A register write reaches its register and no other. -/
@[simp] theorem reg_setReg (r : Nib) (v : Byte) (q : Nib) : (s.setReg r v).reg q = if q = r then v else s.reg q := by
  simp only [State.reg, State.setReg, Vector.getElem_set]
  by_cases h : q = r
  · simp [h]
  · rw [if_neg h, if_neg (fun hh => h (BitVec.eq_of_toNat_eq hh.symm))]

/-- A stack write reaches its slot and no other. -/
@[simp] theorem slot_setSlot (k : Fin 16) (v : Word) (j : Fin 16) :
    (s.setSlot k v).slot j = if j = k then v else s.slot j := by
  simp only [State.slot, State.setSlot, Fin.getElem_fin, Vector.getElem_set, Fin.ext_iff, eq_comm]

/-- A pixel write reaches its cell and no other. -/
@[simp] theorem pixel_setPixel (px : Fin 64) (py : Fin 32) (v : Bool) (qx : Fin 64) (qy : Fin 32) :
    (s.setPixel px py v).pixel qx qy = if qx = px ∧ qy = py then v else s.pixel qx qy := by
  simp only [State.pixel, State.setPixel, Fin.getElem_fin, Vector.getElem_set, Fin.ext_iff]
  by_cases hy : qy.val = py.val
  · by_cases hx : qx.val = px.val
    · simp [hx, hy]
    · simp [hx, hy, Ne.symm hx]
  · simp [hy, Ne.symm hy]

/-- Every pixel is off after clearing. -/
@[simp] theorem pixel_clearVideo (qx : Fin 64) (qy : Fin 32) : s.clearVideo.pixel qx qy = false := by
  simp [State.pixel, State.clearVideo]

/-- A skip changes `pc` only. -/
theorem skipIf_eq (c : Bool) : s.skipIf c = s.setPc (if c then s.pc + 2 else s.pc) := by
  cases c <;> rfl

/-- The flag, then the result: where `X` is 15 the result stays (R126). -/
@[simp] theorem reg_writeFlagResult (x : Nib) (f r : Byte) (q : Nib) :
    (s.writeFlagResult x f r).reg q = if q = x then r else if q = 15 then f else s.reg q := by
  simp [State.writeFlagResult]

end Sys2Proof.Machine
end

