-- ==== Sys2Proof/Laws/Draw.lean ====
section
/-! SUPPORT. What draw does, said once: it flips a list of distinct cells, those the sprite covers with a 1 bit
(44_video R162, R164). -/

namespace Sys2Proof.Machine

/-- Flipping one cell, as an update of a state. -/
def flipCell (t : State) (p : Fin 64 × Fin 32) : State := flipPixel t p.1 p.2

/-- Everything flipping one cell does. -/
theorem flipCell_eq (t : State) (p : Fin 64 × Fin 32) :
    flipCell t p = { t with x := (flipCell t p).x, video := (flipCell t p).video } := by
  simp only [flipCell, flipPixel]; split <;> rfl

theorem pixel_flipCell (t : State) (p : Fin 64 × Fin 32) (px : Fin 64) (py : Fin 32) :
    (flipCell t p).pixel px py = (t.pixel px py ^^ decide (p = (px, py))) := by
  obtain ⟨a, b⟩ := p
  simp only [flipCell, flipPixel, pixel_setPixel, Prod.mk.injEq]
  have h : ∀ u : State, (if t.pixel a b = true then t.setReg 15 (flagByte true) else t).pixel px py = t.pixel px py := by
    intro _; split <;> rfl
  by_cases hp : px = a ∧ py = b
  · obtain ⟨rfl, rfl⟩ := hp; simp
  · rw [if_neg hp, h t]
    rw [decide_eq_false (fun hh => hp ⟨hh.1.symm, hh.2.symm⟩)]; simp

theorem reg_flipCell (t : State) (p : Fin 64 × Fin 32) (q : Nib) :
    (flipCell t p).reg q = if q = 15 ∧ t.pixel p.1 p.2 = true then 1 else t.reg q := by
  simp only [flipCell, flipPixel, setPixel_reg]
  split <;> rename_i h
  · simp [h, flagByte]
  · simp [h]

/-- Flipping a list of cells changes only registers and video. -/
theorem foldl_flipCell_eq (l : List (Fin 64 × Fin 32)) (t : State) :
    l.foldl flipCell t = { t with x := (l.foldl flipCell t).x, video := (l.foldl flipCell t).video } := by
  induction l generalizing t with
  | nil => rfl
  | cons p l ih => rw [List.foldl_cons, ih (flipCell t p)]; rw [flipCell_eq]

/-- Flipping distinct cells: every pixel of the list is inverted, every other one stays. -/
theorem pixel_foldl_flipCell (l : List (Fin 64 × Fin 32)) (hl : l.Nodup) (t : State) (px : Fin 64) (py : Fin 32) :
    (l.foldl flipCell t).pixel px py = (t.pixel px py ^^ decide ((px, py) ∈ l)) := by
  induction l generalizing t with
  | nil => simp
  | cons p l ih =>
    rw [List.foldl_cons, ih (List.nodup_cons.1 hl).2, pixel_flipCell]
    have hp := (List.nodup_cons.1 hl).1
    by_cases h : p = (px, py)
    · subst h; simp [hp]
    · simp [h, Ne.symm h]

/-- Flipping distinct cells: `x[15]` becomes 1 where one of them was on, every other register stays. -/
theorem reg_foldl_flipCell (l : List (Fin 64 × Fin 32)) (hl : l.Nodup) (t : State) (q : Nib) :
    (l.foldl flipCell t).reg q = if q = 15 ∧ ∃ p ∈ l, t.pixel p.1 p.2 = true then 1 else t.reg q := by
  induction l generalizing t with
  | nil => simp
  | cons p l ih =>
    rw [List.foldl_cons, ih (List.nodup_cons.1 hl).2, reg_flipCell]
    have hp := (List.nodup_cons.1 hl).1
    have hpix : (∃ r ∈ l, (flipCell t p).pixel r.1 r.2 = true) ↔ ∃ r ∈ l, t.pixel r.1 r.2 = true := by
      refine exists_congr fun r => and_congr_right fun hr => ?_
      have : p ≠ (r.1, r.2) := fun h => hp (h ▸ hr)
      rw [pixel_flipCell]; simp [this]
    simp only [hpix, List.exists_mem_cons_iff]
    by_cases hq : q = 15
    · subst hq
      by_cases h1 : t.pixel p.1 p.2 = true <;> by_cases h2 : ∃ r ∈ l, t.pixel r.1 r.2 = true <;> simp [h1, h2]
    · rw [if_neg (fun h => hq h.1), if_neg (fun h => hq h.1), if_neg (fun h => hq h.1)]

/-- The cells that row `r` of a sprite covers with a 1 bit. -/
def rowCells (s : State) (vx vy : Byte) (r : Nat) : List (Fin 64 × Fin 32) :=
  ((List.range 8).filter fun c => spriteBit (s.readMem (s.effAddr r)) c).map fun c => (column vx c, row vy r)

/-- The cells that the first `n` rows of a sprite cover with a 1 bit. -/
def drawCells (s : State) (vx vy : Byte) (n : Nat) : List (Fin 64 × Fin 32) :=
  (List.range n).flatMap (rowCells s vx vy)

/-- A row of a draw flips its cells. -/
theorem drawRow_eq (vx vy : Byte) (t : State) (r : Nat) :
    drawRow vx vy t r = (rowCells t vx vy r).foldl flipCell t := by
  rw [rowCells, List.foldl_map, List.foldl_filter]; rfl

/-- The cells of a row depend on memory, `I` and the parameters only. -/
theorem rowCells_congr {s t : State} (h : t = { s with x := t.x, video := t.video }) (vx vy : Byte) (r : Nat) :
    rowCells t vx vy r = rowCells s vx vy r := by rw [h]; rfl

/-- A draw flips the cells of its sprite. -/
theorem foldl_drawRow_eq (vx vy : Byte) (n : Nat) (s : State) :
    (List.range n).foldl (drawRow vx vy) s = (drawCells s vx vy n).foldl flipCell s := by
  induction n with
  | zero => rfl
  | succ n ih =>
    rw [drawCells, List.range_succ, List.foldl_append, List.flatMap_append, List.foldl_append, ← drawCells, ← ih]
    simp only [List.foldl_cons, List.foldl_nil, List.flatMap_cons, List.flatMap_nil, List.append_nil]
    rw [drawRow_eq, rowCells_congr (s := s)]
    rw [ih]; exact foldl_flipCell_eq _ s

theorem mem_rowCells {s : State} {vx vy : Byte} {r : Nat} {p : Fin 64 × Fin 32} :
    p ∈ rowCells s vx vy r ↔
      ∃ c, c < 8 ∧ spriteBit (s.readMem (s.effAddr r)) c = true ∧ p = (column vx c, row vy r) := by
  simp only [rowCells, List.mem_map, List.mem_filter, List.mem_range]
  constructor
  · rintro ⟨c, ⟨h1, h2⟩, h3⟩; exact ⟨c, h1, h2, h3.symm⟩
  · rintro ⟨c, h1, h2, h3⟩; exact ⟨c, ⟨h1, h2⟩, h3.symm⟩

/-- The cells of a draw are those of `spriteAt`. -/
theorem mem_drawCells {s : State} {vx vy : Byte} {n : Nat} (hn : n ≤ 32) {px : Fin 64} {py : Fin 32} :
    (px, py) ∈ drawCells s vx vy n ↔ s.spriteAt vx vy n px py = true := by
  simp only [drawCells, List.mem_flatMap, List.mem_range, mem_rowCells, Prod.mk.injEq, State.spriteAt,
    Bool.and_eq_true, decide_eq_true_eq, column, row, Fin.ext_iff, Fin.val_ofNat, spriteBit]
  have hpx := px.isLt
  have hpy := py.isLt
  constructor
  · rintro ⟨r, hr, c, hc, hb, hx, hy⟩
    have h1 : (px.val + 64 - vx.toNat % 64) % 64 = c := by omega
    have h2 : (py.val + 32 - vy.toNat % 32) % 32 = r := by omega
    rw [h1, h2]; exact ⟨⟨hc, hr⟩, hb⟩
  · rintro ⟨⟨hc, hr⟩, hb⟩
    exact ⟨_, hr, _, hc, hb, by omega, by omega⟩

/-- No cell is flipped twice (R162 d). -/
theorem drawCells_nodup (s : State) (vx vy : Byte) (n : Nat) (hn : n ≤ 32) : (drawCells s vx vy n).Nodup := by
  rw [drawCells, List.nodup_flatMap]
  refine ⟨fun r _ => ?_, ?_⟩
  · refine List.Nodup.map_on ?_ (List.nodup_range.filter _)
    intro a ha b hb h
    simp only [List.mem_filter, List.mem_range] at ha hb
    simp only [Prod.mk.injEq, column, Fin.ext_iff, Fin.val_ofNat] at h
    omega
  · refine List.Pairwise.imp_of_mem ?_ List.nodup_range
    intro r₁ r₂ h₁ h₂ hne p hp₁ hp₂
    obtain ⟨_, _, _, rfl⟩ := mem_rowCells.1 hp₁
    obtain ⟨_, _, _, h⟩ := mem_rowCells.1 hp₂
    simp only [List.mem_range] at h₁ h₂
    simp only [Prod.mk.injEq, row, Fin.ext_iff, Fin.val_ofNat] at h
    omega

/-- Everything the row loop of a draw does: it changes registers and video only; it inverts exactly the pixels under a
1 bit of the sprite; it sets `x[15]` to 1 where one of those was on. -/
theorem foldl_drawRow_spec (vx vy : Byte) (n : Nat) (hn : n ≤ 32) (s : State) :
    let t := (List.range n).foldl (drawRow vx vy) s
    (∃ xs v, t = { s with x := xs, video := v }) ∧
    (∀ px py, t.pixel px py = (s.pixel px py ^^ s.spriteAt vx vy n px py)) ∧
    (∀ q, t.reg q = if q = 15 ∧ ∃ px py, s.spriteAt vx vy n px py = true ∧ s.pixel px py = true then 1
      else s.reg q) := by
  simp only [foldl_drawRow_eq]
  have hd := drawCells_nodup s vx vy n hn
  refine ⟨⟨_, _, foldl_flipCell_eq _ _⟩, fun px py => ?_, fun q => ?_⟩
  · rw [pixel_foldl_flipCell _ hd]
    congr 1
    rw [Bool.eq_iff_iff, decide_eq_true_eq, mem_drawCells hn]
  · rw [reg_foldl_flipCell _ hd]
    refine if_congr (and_congr_right fun _ => ?_) rfl rfl
    constructor
    · rintro ⟨p, hp, h⟩; exact ⟨p.1, p.2, (mem_drawCells hn).1 hp, h⟩
    · rintro ⟨px, py, hp, h⟩; exact ⟨(px, py), (mem_drawCells hn).2 hp, h⟩

end Sys2Proof.Machine
end

