-- ==== Sys2Proof/Laws/Memory.lean ====
section
/-! SUPPORT. Memory: read after write, and that every write keeps the canonical form. -/

namespace Sys2Proof.Machine

/-- A put byte is found at its address, every other address as before. -/
theorem Memory.byteAt_putByte (m : Memory) (a : Nat) (b : Byte) (c : Nat) :
    (m.putByte a b).byteAt c = if c = a then some b else m.byteAt c := by
  induction m with
  | nil => simp [Memory.putByte, Memory.byteAt, eq_comm]
  | cons e m ih =>
    obtain ⟨k, v⟩ := e
    simp only [Memory.putByte]
    split
    · simp [Memory.byteAt, eq_comm]
    · split
      · rename_i hk
        subst hk
        by_cases h : c = k
        · simp [Memory.byteAt, h]
        · simp [Memory.byteAt, h, Ne.symm h]
      · simp only [Memory.byteAt, ih]
        by_cases h : c = a <;> by_cases h' : k = c <;> simp_all

/-- A dropped address is found no more, every other address as before. -/
theorem Memory.byteAt_dropByte (m : Memory) (a c : Nat) :
    (m.dropByte a).byteAt c = if c = a then none else m.byteAt c := by
  induction m with
  | nil => simp [Memory.dropByte, Memory.byteAt]
  | cons e m ih =>
    obtain ⟨k, v⟩ := e
    simp only [Memory.dropByte]
    by_cases h : c = a <;> by_cases h' : k = a <;> by_cases h'' : k = c <;>
      simp_all [Memory.byteAt]

/-- A lower bound of the addresses may be lowered. -/
theorem Memory.rising_mono {lo lo' : Nat} (h : lo ≤ lo') {m : Memory} (hm : Memory.rising lo' m = true) :
    Memory.rising lo m = true := by
  cases m with
  | nil => rfl
  | cons e m =>
    simp only [Memory.rising, Bool.and_eq_true, decide_eq_true_eq] at hm ⊢
    exact ⟨by omega, hm.2⟩

/-- Putting a byte keeps the addresses rising. -/
theorem Memory.rising_putByte {a : Nat} (b : Byte) {lo : Nat} (ha : lo ≤ a) {m : Memory}
    (hm : Memory.rising lo m = true) : Memory.rising lo (m.putByte a b) = true := by
  induction m generalizing lo with
  | nil => simp [Memory.putByte, Memory.rising, ha]
  | cons e m ih =>
    obtain ⟨k, v⟩ := e
    simp only [Memory.rising, Bool.and_eq_true, decide_eq_true_eq] at hm
    simp only [Memory.putByte]
    split
    · simp only [Memory.rising, Bool.and_eq_true, decide_eq_true_eq]
      exact ⟨ha, by omega, hm.2⟩
    · split
      · subst_vars; simp only [Memory.rising, Bool.and_eq_true, decide_eq_true_eq]; exact ⟨ha, hm.2⟩
      · simp only [Memory.rising, Bool.and_eq_true, decide_eq_true_eq]
        exact ⟨hm.1, ih (by omega) hm.2⟩

/-- Dropping an address keeps the addresses rising. -/
theorem Memory.rising_dropByte (a : Nat) {lo : Nat} {m : Memory} (hm : Memory.rising lo m = true) :
    Memory.rising lo (m.dropByte a) = true := by
  induction m generalizing lo with
  | nil => rfl
  | cons e m ih =>
    obtain ⟨k, v⟩ := e
    simp only [Memory.rising, Bool.and_eq_true, decide_eq_true_eq] at hm
    simp only [Memory.dropByte]
    split
    · exact Memory.rising_mono (by omega) (ih hm.2)
    · simp only [Memory.rising, Bool.and_eq_true, decide_eq_true_eq]; exact ⟨hm.1, ih hm.2⟩

/-- Every entry after a put is the put one or an old one. -/
theorem Memory.mem_putByte {m : Memory} {a : Nat} {b : Byte} {e : Host.Cell} (h : e ∈ m.putByte a b) :
    e = (a, b) ∨ e ∈ m := by
  induction m with
  | nil => simpa [Memory.putByte] using h
  | cons f m ih =>
    obtain ⟨k, v⟩ := f
    simp only [Memory.putByte] at h
    split at h
    · simpa using h
    · split at h
      · rcases List.mem_cons.1 h with h | h
        · exact .inl h
        · exact .inr (List.mem_cons_of_mem _ h)
      · rcases List.mem_cons.1 h with h | h
        · exact .inr (by simp [h])
        · rcases ih h with h | h
          · exact .inl h
          · exact .inr (List.mem_cons_of_mem _ h)

/-- Every entry after a drop is an old one. -/
theorem Memory.mem_dropByte {m : Memory} {a : Nat} {e : Host.Cell} (h : e ∈ m.dropByte a) : e ∈ m := by
  induction m with
  | nil => exact h
  | cons f m ih =>
    obtain ⟨k, v⟩ := f
    simp only [Memory.dropByte] at h
    split at h
    · exact List.mem_cons_of_mem _ (ih h)
    · rcases List.mem_cons.1 h with h | h
      · simp [h]
      · exact List.mem_cons_of_mem _ (ih h)

/-- A write keeps the canonical form, and the parameters it is stated with. -/
theorem writeMem_wf (s : State) (a : Nat) (v : Byte) (h : Memory.wf s.cfg s.mem = true) :
    Memory.wf (s.writeMem a v).cfg (s.writeMem a v).mem = true := by
  simp only [Memory.wf, Bool.and_eq_true, List.all_eq_true, decide_eq_true_eq] at h ⊢
  simp only [State.writeMem]
  split
  · exact ⟨Memory.rising_dropByte _ h.1, fun e he => h.2 e (Memory.mem_dropByte he)⟩
  · next hv =>
    refine ⟨Memory.rising_putByte _ (Nat.zero_le _) h.1, fun e he => ?_⟩
    rcases Memory.mem_putByte he with rfl | he
    · exact ⟨Nat.mod_lt _ (by decide), hv⟩
    · exact h.2 e he

/-- Writing a list of bytes keeps the canonical form. -/
theorem writeBytes_wf (bs : List Byte) (s : State) (a : Nat) (h : Memory.wf s.cfg s.mem = true) :
    Memory.wf (s.writeBytes a bs).cfg (s.writeBytes a bs).mem = true := by
  induction bs generalizing s a with
  | nil => exact h
  | cons b bs ih => exact ih _ _ (writeMem_wf s a b h)

/-- The memory after reset has the canonical form. -/
theorem resetWith_wf (c : Config) : Memory.wf (State.resetWith c).cfg (State.resetWith c).mem = true := rfl

/-- Everything a write does to later reads: the written byte at its address modulo 4096, every other byte as before. -/
@[simp] theorem readMem_writeMem (s : State) (a : Nat) (v : Byte) (c : Nat) :
    (s.writeMem a v).readMem c = if c % 4096 = a % 4096 then v else s.readMem c := by
  simp only [State.readMem, State.writeMem]
  split
  · rename_i hv
    rw [Memory.byteAt_dropByte]
    split
    · rename_i hc; rw [hc]; simp [hv]
    · rfl
  · rw [Memory.byteAt_putByte]
    split <;> rfl

end Sys2Proof.Machine
end

