-- ==== Sys2Proof/Laws/PerInstr.lean ====
section
/-! SUPPORT. Per-instruction facts: the canonical word of an instruction lies in its row of 30_encoding R75. -/

namespace Sys2Proof.Laws.CanonicalWord

/-- The word the assembler emits for an instruction (R81) is selected by that instruction's mask and match (R75). -/
def Statement (i : Instr) : Prop := encode i &&& maskOf i = matchOf i

/-- Family and address: the mask keeps the family. -/
theorem of_wordA (f : Nib) (nnn : Addr) : wordA f nnn &&& 0xF000 = wordA f 0 := by
  apply BitVec.eq_of_getLsbD_eq
  intro i hi
  simp only [wordA, BitVec.getLsbD_and, BitVec.getLsbD_append]
  interval_cases i <;> simp

/-- Family, register and byte: the mask 0xF000 keeps the family. -/
theorem of_wordXK_family (f x : Nib) (kk : Byte) : wordXK f x kk &&& 0xF000 = wordXK f 0 0 := by
  apply BitVec.eq_of_getLsbD_eq
  intro i hi
  simp only [wordXK, BitVec.getLsbD_and, BitVec.getLsbD_append]
  interval_cases i <;> simp

/-- Family, register and byte: the mask 0xF0FF keeps the family and the byte. -/
theorem of_wordXK_byte (f x : Nib) (kk : Byte) : wordXK f x kk &&& 0xF0FF = wordXK f 0 kk := by
  apply BitVec.eq_of_getLsbD_eq
  intro i hi
  simp only [wordXK, BitVec.getLsbD_and, BitVec.getLsbD_append]
  interval_cases i <;> simp

/-- Four nibbles: the mask 0xF000 keeps the family. -/
theorem of_wordXYN_family (f x y n : Nib) : wordXYN f x y n &&& 0xF000 = wordXYN f 0 0 0 := by
  apply BitVec.eq_of_getLsbD_eq
  intro i hi
  simp only [wordXYN, BitVec.getLsbD_and, BitVec.getLsbD_append]
  interval_cases i <;> simp

/-- Four nibbles: the mask 0xF00F keeps the family and the low nibble. -/
theorem of_wordXYN_nibble (f x y n : Nib) : wordXYN f x y n &&& 0xF00F = wordXYN f 0 0 n := by
  apply BitVec.eq_of_getLsbD_eq
  intro i hi
  simp only [wordXYN, BitVec.getLsbD_and, BitVec.getLsbD_append]
  interval_cases i <;> simp

theorem clearScreen : Statement .clearScreen := rfl

theorem ret : Statement .ret := rfl

theorem jump (nnn : Addr) : Statement (.jump nnn) := (of_wordA _ _ ).trans rfl

theorem call (nnn : Addr) : Statement (.call nnn) := (of_wordA _ _ ).trans rfl

theorem skipEqImm (x : Nib) (kk : Byte) : Statement (.skipEqImm x kk) := (of_wordXK_family _ _ _ ).trans rfl

theorem skipNeqImm (x : Nib) (kk : Byte) : Statement (.skipNeqImm x kk) := (of_wordXK_family _ _ _ ).trans rfl

theorem skipEqReg (x y : Nib) : Statement (.skipEqReg x y) := (of_wordXYN_family _ _ _ _ ).trans rfl

theorem skipNeqReg (x y : Nib) : Statement (.skipNeqReg x y) := (of_wordXYN_family _ _ _ _ ).trans rfl

theorem loadImm (x : Nib) (kk : Byte) : Statement (.loadImm x kk) := (of_wordXK_family _ _ _ ).trans rfl

theorem addImm (x : Nib) (kk : Byte) : Statement (.addImm x kk) := (of_wordXK_family _ _ _ ).trans rfl

theorem move (x y : Nib) : Statement (.move x y) := (of_wordXYN_nibble _ _ _ _ ).trans rfl

theorem orReg (x y : Nib) : Statement (.orReg x y) := (of_wordXYN_nibble _ _ _ _ ).trans rfl

theorem andReg (x y : Nib) : Statement (.andReg x y) := (of_wordXYN_nibble _ _ _ _ ).trans rfl

theorem xorReg (x y : Nib) : Statement (.xorReg x y) := (of_wordXYN_nibble _ _ _ _ ).trans rfl

theorem addReg (x y : Nib) : Statement (.addReg x y) := (of_wordXYN_nibble _ _ _ _ ).trans rfl

theorem subReg (x y : Nib) : Statement (.subReg x y) := (of_wordXYN_nibble _ _ _ _ ).trans rfl

theorem shiftRight (x : Nib) : Statement (.shiftRight x) := (of_wordXYN_nibble _ _ _ _ ).trans rfl

theorem subnReg (x y : Nib) : Statement (.subnReg x y) := (of_wordXYN_nibble _ _ _ _ ).trans rfl

theorem shiftLeft (x : Nib) : Statement (.shiftLeft x) := (of_wordXYN_nibble _ _ _ _ ).trans rfl

theorem setIndex (nnn : Addr) : Statement (.setIndex nnn) := (of_wordA _ _ ).trans rfl

theorem jumpOffset (nnn : Addr) : Statement (.jumpOffset nnn) := (of_wordA _ _ ).trans rfl

theorem randomAnd (x : Nib) (kk : Byte) : Statement (.randomAnd x kk) := (of_wordXK_family _ _ _ ).trans rfl

theorem draw (x y n : Nib) : Statement (.draw x y n) := (of_wordXYN_family _ _ _ _ ).trans rfl

theorem skipKeyPressed (x : Nib) : Statement (.skipKeyPressed x) := (of_wordXYN_nibble _ _ _ _ ).trans rfl

theorem skipKeyNotPressed (x : Nib) : Statement (.skipKeyNotPressed x) := (of_wordXYN_nibble _ _ _ _ ).trans rfl

theorem loadDelay (x : Nib) : Statement (.loadDelay x) := (of_wordXK_byte _ _ _ ).trans rfl

theorem waitKey (x : Nib) : Statement (.waitKey x) := (of_wordXK_byte _ _ _ ).trans rfl

theorem setDelay (x : Nib) : Statement (.setDelay x) := (of_wordXK_byte _ _ _ ).trans rfl

theorem setSound (x : Nib) : Statement (.setSound x) := (of_wordXK_byte _ _ _ ).trans rfl

theorem addIndex (x : Nib) : Statement (.addIndex x) := (of_wordXK_byte _ _ _ ).trans rfl

theorem loadGlyphAddr (x : Nib) : Statement (.loadGlyphAddr x) := (of_wordXK_byte _ _ _ ).trans rfl

theorem storeBcd (x : Nib) : Statement (.storeBcd x) := (of_wordXK_byte _ _ _ ).trans rfl

theorem storeRegs (x : Nib) : Statement (.storeRegs x) := (of_wordXK_byte _ _ _ ).trans rfl

theorem loadRegs (x : Nib) : Statement (.loadRegs x) := (of_wordXK_byte _ _ _ ).trans rfl

theorem noOp : Statement .noOp := rfl

end Sys2Proof.Laws.CanonicalWord
end

