-- ==== Sys2Proof/Laws/Tick.lean ====
section
/-! SUPPORT. What one tick can do, said once (40_tick_cycle R90, R97, R98). -/

namespace Sys2Proof.Machine

/-- A countdown stops at zero (R95). -/
theorem countDown_toNat (v : Byte) : (countDown v).toNat = v.toNat - 1 := by
  unfold countDown
  split
  · rename_i h; subst h; rfl
  · rename_i h
    have : v.toNat ≠ 0 := fun hh => h (BitVec.eq_of_toNat_eq hh)
    have := v.isLt
    rw [BitVec.toNat_sub]; simp; omega

/-- A halted core's tick. -/
theorem tick_of_halted {s : State} (h : s.fault ≠ .none) (rnd : Byte) : tick rnd s = .next s := if_neg h

/-- A running core's tick. -/
theorem tick_of_running {s : State} (h : s.fault = .none) (rnd : Byte) :
    tick rnd s = s.runWord s.fetchWord rnd := if_pos h

/-- Where an instruction answers a next state, so does the tick, with that state's end of tick. -/
theorem runWord_of_exec {s t : State} {w : Word} {rnd : Byte}
    (h : exec (decodeWord w) (s.beginTick rnd) = .next t) : s.runWord w rnd = .next (s.finishTick t) := by
  simp only [State.runWord, h]

/-- Every next state of a tick: the state itself on a halted core, else the end of the tick after the fetched
instruction's own next state. -/
theorem tick_cases {s u : State} {rnd : Byte} (h : tick rnd s = .next u) :
    (s.fault ≠ .none ∧ u = s) ∨
    (s.fault = .none ∧ ∃ t, exec (decodeWord s.fetchWord) (s.beginTick rnd) = .next t ∧ u = s.finishTick t) := by
  by_cases hf : s.fault = .none
  · rw [tick_of_running hf, State.runWord] at h
    split at h <;> simp_all
  · rw [tick_of_halted hf] at h; simp_all

/-- The end of a tick whose instruction raised no fault (R95). -/
theorem finishTick_of_ok {t : State} (s : State) (h : t.fault = .none) :
    s.finishTick t = { t.timerTick with rnd := s.rnd } := if_pos h

/-- The end of a tick whose instruction raised a fault: the latch and nothing else (R97, R195). -/
theorem finishTick_of_fault {t : State} (s : State) (h : t.fault ≠ .none) :
    s.finishTick t = { s with fault := t.fault } := if_neg h

end Sys2Proof.Machine
end

