-- ==== Sys2Proof/Laws/Transfer.lean ====
section
/-! SUPPORT. What the register-block transfers of 43_index_and_memory R144 and R145 do, said once. -/

namespace Sys2Proof.Machine

/-- Everything a run of register stores does, other than to memory: nothing. -/
theorem foldl_storeOne_eq (s : State) (n : Nat) (t : State) :
    ∃ m, (List.range n).foldl (storeOne s) t = { t with mem := m } := by
  induction n with
  | zero => exact ⟨_, rfl⟩
  | succ n ih =>
    obtain ⟨m, hm⟩ := ih
    rw [List.range_succ, List.foldl_append, hm]
    exact ⟨_, rfl⟩

/-- A run of register stores keeps the canonical form. -/
theorem foldl_storeOne_wf (s : State) (n : Nat) (t : State) (h : Memory.wf t.cfg t.mem = true) :
    Memory.wf ((List.range n).foldl (storeOne s) t).cfg ((List.range n).foldl (storeOne s) t).mem = true := by
  induction n with
  | zero => exact h
  | succ n ih => rw [List.range_succ, List.foldl_append]; exact writeMem_wf _ _ _ ih

/-- The effective addresses of the at most sixteen bytes of one transfer differ. -/
theorem effAddr_inj {s : State} {i j : Nat} (hi : i < 16) (hj : j < 16) (h : s.effAddr i = s.effAddr j) : i = j := by
  simp only [State.effAddr] at h; omega

/-- An effective address is an address. -/
theorem effAddr_lt (s : State) (i : Nat) : s.effAddr i < 4096 := Nat.mod_lt _ (by decide)

/-- Reads after a run of register stores: register `i` at `I + i`, every other byte as before. -/
theorem readMem_foldl_storeOne (s : State) (n : Nat) (hn : n ≤ 16) (t : State) :
    (∀ i, i < n → ((List.range n).foldl (storeOne s) t).readMem (s.effAddr i) = s.reg (BitVec.ofNat 4 i)) ∧
    (∀ a, a < 4096 → (∀ i, i < n → a ≠ s.effAddr i) →
      ((List.range n).foldl (storeOne s) t).readMem a = t.readMem a) := by
  induction n with
  | zero => simp
  | succ n ih =>
    obtain ⟨ih₁, ih₂⟩ := ih (by omega)
    have hlt := effAddr_lt s
    rw [List.range_succ, List.foldl_append]
    refine ⟨fun i hi => ?_, fun a ha hne => ?_⟩
    · simp only [List.foldl_cons, List.foldl_nil, storeOne, readMem_writeMem, Nat.mod_eq_of_lt (hlt _)]
      by_cases h : i = n
      · simp [h]
      · rw [if_neg (fun hh => h (effAddr_inj (by omega) (by omega) hh)), ih₁ i (by omega)]
    · simp only [List.foldl_cons, List.foldl_nil, storeOne, readMem_writeMem, Nat.mod_eq_of_lt (hlt _),
        Nat.mod_eq_of_lt ha]
      rw [if_neg (hne n (by omega)), ih₂ a ha (fun i hi => hne i (by omega))]

/-- Everything a run of register loads does, other than to the registers: nothing. -/
theorem foldl_loadOne_eq (s : State) (n : Nat) (t : State) :
    ∃ xs, (List.range n).foldl (loadOne s) t = { t with x := xs } := by
  induction n with
  | zero => exact ⟨_, rfl⟩
  | succ n ih =>
    obtain ⟨xs, hx⟩ := ih
    rw [List.range_succ, List.foldl_append, hx]
    exact ⟨_, rfl⟩

/-- Registers after a run of register loads: register `i` from `I + i`, every later one as before. -/
theorem reg_foldl_loadOne (s : State) (n : Nat) (hn : n ≤ 16) (t : State) (q : Nib) :
    ((List.range n).foldl (loadOne s) t).reg q =
      if q.toNat < n then s.readMem (s.effAddr q.toNat) else t.reg q := by
  induction n with
  | zero => simp
  | succ n ih =>
    rw [List.range_succ, List.foldl_append]
    simp only [List.foldl_cons, List.foldl_nil, loadOne, reg_setReg, ih (by omega)]
    have hq : q = BitVec.ofNat 4 n ↔ q.toNat = n := by
      rw [← BitVec.toNat_inj, BitVec.toNat_ofNat, Nat.mod_eq_of_lt (show n < 2 ^ 4 by omega)]
    by_cases h : q.toNat = n
    · simp [hq, h]
    · rw [if_neg (fun hh => h (hq.1 hh))]
      exact if_congr (by omega) rfl rfl

end Sys2Proof.Machine
end

