-- ==== Sys2Proof/Machine/Asm.lean ====
section
/-! DEFINITION. The assembler syntax of 30_encoding R81 to R83 on lines already split into a mnemonic and operands.
Nothing in it affects the machine (D14, log entry 16). -/

namespace Sys2Proof.Machine

/-- An operand of an assembler line (R81, R82). -/
inductive AsmOperand where
  | reg (n : Nat)
  | num (n : Nat)
  | label (name : String)
  deriving DecidableEq, Repr

/-- A line of an assembler program (R81, R82). -/
inductive AsmItem where
  | label (name : String)
  | org (addr : Nat)
  | bytes (bs : List Nat)
  | word (w : Nat)
  | line (mnemonic : String) (ops : List AsmOperand)
  deriving DecidableEq, Repr

/-- A digit of a number in base `base`. -/
def asmDigit (base : Nat) (c : Char) : Option Nat :=
  let d := if '0' ≤ c ∧ c ≤ '9' then c.toNat - 48 else if 'A' ≤ c ∧ c ≤ 'F' then c.toNat - 55
    else if 'a' ≤ c ∧ c ≤ 'f' then c.toNat - 87 else base
  if d < base then some d else none

/-- A number of at least one digit. -/
def asmNumber (base : Nat) : List Char → Option Nat
  | [] => none
  | cs => cs.foldlM (fun n c => (asmDigit base c).map (n * base + ·)) 0

/-- An operand's text: `xN` with a decimal index, a decimal number, a hexadecimal one after `0x`, else a label (R81). -/
def asmOperand (cs : List Char) : AsmOperand :=
  match cs with
  | 'x' :: ds => match asmNumber 10 ds with
    | some n => .reg n
    | none => .label (String.ofList cs)
  | '0' :: 'x' :: ds => match asmNumber 16 ds with
    | some n => .num n
    | none => .label (String.ofList cs)
  | _ => match asmNumber 10 cs with
    | some n => .num n
    | none => .label (String.ofList cs)

/-- Labels and the addresses they name (R82). -/
abbrev AsmLabels := List (String × Nat)

/-- A register operand `x0` to `x15` (R81). -/
def AsmOperand.toReg : AsmOperand → Option Nib
  | .reg n => if WellFormed.isReg n then some (BitVec.ofNat 4 n) else none
  | _ => none

/-- An immediate byte (R73). -/
def AsmOperand.toByte : AsmOperand → Option Byte
  | .num n => if WellFormed.isByte n then some (BitVec.ofNat 8 n) else none
  | _ => none

/-- A row count (R73). -/
def AsmOperand.toCount : AsmOperand → Option Nib
  | .num n => if WellFormed.isCount n then some (BitVec.ofNat 4 n) else none
  | _ => none

/-- An address, or a label wherever `NNN` may stand (R73, R82). -/
def AsmOperand.toAddr (env : AsmLabels) : AsmOperand → Option Addr
  | .num n => if WellFormed.isAddr n then some (BitVec.ofNat 12 n) else none
  | .label l => (env.lookup l).bind fun n => if WellFormed.isAddr n then some (BitVec.ofNat 12 n) else none
  | .reg _ => none

/-- A line with one address operand. -/
def asmA (env : AsmLabels) (f : Addr → Instr) : List AsmOperand → Option Instr
  | [a] => (a.toAddr env).map f
  | _ => none

/-- A line with one register operand. -/
def asmX (f : Nib → Instr) : List AsmOperand → Option Instr
  | [a] => a.toReg.map f
  | _ => none

/-- A line with two register operands. -/
def asmXY (f : Nib → Nib → Instr) : List AsmOperand → Option Instr
  | [a, b] => a.toReg.bind fun x => b.toReg.map (f x)
  | _ => none

/-- A line with a register and an immediate byte. -/
def asmXK (f : Nib → Byte → Instr) : List AsmOperand → Option Instr
  | [a, b] => a.toReg.bind fun x => b.toByte.map (f x)
  | _ => none

/-- A line with two registers and a count. -/
def asmXYN (f : Nib → Nib → Nib → Instr) : List AsmOperand → Option Instr
  | [a, b, c] => a.toReg.bind fun x => b.toReg.bind fun y => c.toCount.map (f x y)
  | _ => none

/-- A line with no operand. -/
def asmNone (i : Instr) : List AsmOperand → Option Instr
  | [] => some i
  | _ => none

/-- The instruction a line encodes (R81), and the pseudo-instruction `nop` (R83). -/
def asmLine (env : AsmLabels) (mnemonic : String) : List AsmOperand → Option Instr :=
  match mnemonic with
  | "clear-screen" => asmNone .clearScreen
  | "return" => asmNone .ret
  | "jump" => asmA env .jump
  | "call" => asmA env .call
  | "skip-eq-imm" => asmXK .skipEqImm
  | "skip-neq-imm" => asmXK .skipNeqImm
  | "skip-eq-reg" => asmXY .skipEqReg
  | "skip-neq-reg" => asmXY .skipNeqReg
  | "load-imm" => asmXK .loadImm
  | "add-imm" => asmXK .addImm
  | "move" => asmXY .move
  | "or" => asmXY .orReg
  | "and" => asmXY .andReg
  | "xor" => asmXY .xorReg
  | "add-reg" => asmXY .addReg
  | "sub-reg" => asmXY .subReg
  | "shift-right" => asmX .shiftRight
  | "subn-reg" => asmXY .subnReg
  | "shift-left" => asmX .shiftLeft
  | "set-index" => asmA env .setIndex
  | "jump-offset" => asmA env .jumpOffset
  | "random-and" => asmXK .randomAnd
  | "draw" => asmXYN .draw
  | "skip-key-pressed" => asmX .skipKeyPressed
  | "skip-key-not-pressed" => asmX .skipKeyNotPressed
  | "load-delay" => asmX .loadDelay
  | "wait-key" => asmX .waitKey
  | "set-delay" => asmX .setDelay
  | "set-sound" => asmX .setSound
  | "add-index" => asmX .addIndex
  | "load-glyph-addr" => asmX .loadGlyphAddr
  | "store-bcd" => asmX .storeBcd
  | "store-regs" => asmX .storeRegs
  | "load-regs" => asmX .loadRegs
  | "nop" => asmNone .noOp
  | _ => fun _ => none

/-- The label table: every label names the address of what follows it (R82). -/
def asmLabels (at_ : Nat) : List AsmItem → AsmLabels
  | [] => []
  | .label l :: rest => (l, at_) :: asmLabels at_ rest
  | .org a :: rest => asmLabels a rest
  | .bytes bs :: rest => asmLabels (at_ + bs.length) rest
  | .word _ :: rest => asmLabels (at_ + 2) rest
  | .line _ _ :: rest => asmLabels (at_ + 2) rest

/-- The bytes an item emits, an instruction or a `.word` with its high byte first (R70, R82). -/
def AsmItem.emit (env : AsmLabels) : AsmItem → Option (List Byte)
  | .label _ => some []
  | .org _ => some []
  | .bytes bs => if bs.all WellFormed.isByte then some (bs.map (BitVec.ofNat 8)) else none
  | .word w => if WellFormed.isWord w then some [Word.hi (BitVec.ofNat 16 w), Word.lo (BitVec.ofNat 16 w)] else none
  | .line m ops => (asmLine env m ops).map encodeBytes

/-- The bytes of a program at their addresses. -/
def asmCells (env : AsmLabels) (at_ : Nat) : List AsmItem → Option (List Host.Cell)
  | [] => some []
  | .org a :: rest => asmCells env a rest
  | item :: rest => (item.emit env).bind fun bs =>
    (asmCells env (at_ + bs.length) rest).map ((List.range' at_ bs.length).zip bs ++ ·)

/-- A program's bytes at their addresses; without `.org` it starts at 0x200 (R82). -/
def assemble (items : List AsmItem) : Option (List Host.Cell) := asmCells (asmLabels 0x200 items) 0x200 items

/-- The image of a program that lies without gaps from 0x200 on, as `load` takes it (R212). -/
def assembleImage (items : List AsmItem) : Option (List Byte) :=
  (assemble items).bind fun cells =>
    if cells.map Prod.fst = List.range' 0x200 cells.length then some (cells.map Prod.snd) else none

end Sys2Proof.Machine
end

