-- ==== Sys2Proof/Tests/Slice0.lean ====
section
/-! SUPPORT. Tests: expected values from 95_test_vectors.md and the words of 30_encoding R75; and, for every statement
with hypotheses, a state and operands that meet them. -/

namespace Sys2Proof.Tests

open Sys2Proof.Machine

/-! ### Helpers -/

/-- The state a step answers with. -/
def after (o : Host.Outcome State Fault Refusal) : Option State :=
  match o with
  | .next s => some s
  | .fault _ => none
  | .refused _ => none

/-- The reset state with a word at 0x200 (95_test_vectors, conventions). -/
def at200 (w : Word) : State := State.reset.placeWord w

/-- What a test looks at after one tick of a state. -/
def seen {α : Type} (s : State) (f : State → α) : Option α := (after (tick 0 s)).map f

/-- The pixels that are on in row `y`, as column numbers. -/
def onInRow (s : State) (y : Fin 32) : List Nat := (List.range 64).filter fun x => s.pixel (Fin.ofNat 64 x) y

/-! ### Well-formed operands: an ill-formed number for each check -/

theorem test_wellformed_reg : WellFormed.isReg 15 = true ∧ WellFormed.isReg 16 = false := by decide
theorem test_wellformed_byte : WellFormed.isByte 255 = true ∧ WellFormed.isByte 256 = false := by decide
theorem test_wellformed_addr : WellFormed.isAddr 4095 = true ∧ WellFormed.isAddr 4096 = false := by decide
theorem test_wellformed_count : WellFormed.isCount 15 = true ∧ WellFormed.isCount 16 = false := by decide
theorem test_wellformed_word : WellFormed.isWord 65535 = true ∧ WellFormed.isWord 65536 = false := by decide
theorem test_wellformed_glyphBase : WellFormed.isGlyphBase 0x1B0 = true ∧ WellFormed.isGlyphBase 0x1B1 = false := by
  decide
theorem test_wellformed_image : WellFormed.isImage (List.replicate 3584 0) = true ∧
    WellFormed.isImage (List.replicate 3585 0) = false := by
  rw [WellFormed.isImage, WellFormed.isImage, List.length_replicate, List.length_replicate]; decide

/-! ### Decoding: words written out from R75, one for each constructor -/

theorem test_decode_family0 : decodeWord 0x00E0 = .clearScreen ∧ decodeWord 0x0000 = .clearScreen ∧
    decodeWord 0x00EE = .ret ∧ decodeWord 0x0ABE = .ret ∧ decodeWord 0x0001 = .noOp ∧ decodeWord 0x00EF = .noOp := by
  decide
theorem test_decode_addresses : decodeWord 0x1234 = .jump 0x234 ∧ decodeWord 0x2300 = .call 0x300 ∧
    decodeWord 0xA2F0 = .setIndex 0x2F0 ∧ decodeWord 0xBFFF = .jumpOffset 0xFFF := by decide
theorem test_decode_immediates : decodeWord 0x332A = .skipEqImm 3 0x2A ∧ decodeWord 0x432A = .skipNeqImm 3 0x2A ∧
    decodeWord 0x6A7F = .loadImm 10 0x7F ∧ decodeWord 0x7220 = .addImm 2 0x20 ∧
    decodeWord 0xC50F = .randomAnd 5 0x0F := by decide
theorem test_decode_register_skips : decodeWord 0x5AB7 = .skipEqReg 10 11 ∧ decodeWord 0x9AB3 = .skipNeqReg 10 11 := by
  decide
theorem test_decode_family8 : decodeWord 0x8140 = .move 1 4 ∧ decodeWord 0x8121 = .orReg 1 2 ∧
    decodeWord 0x8122 = .andReg 1 2 ∧ decodeWord 0x8123 = .xorReg 1 2 ∧ decodeWord 0x8124 = .addReg 1 2 ∧
    decodeWord 0x8125 = .subReg 1 2 ∧ decodeWord 0x8AB6 = .shiftRight 10 ∧ decodeWord 0x8127 = .subnReg 1 2 ∧
    decodeWord 0x8ABE = .shiftLeft 10 ∧ decodeWord 0x8AB8 = .noOp ∧ decodeWord 0x8ABF = .noOp := by decide
theorem test_decode_draw : decodeWord 0xD125 = .draw 1 2 5 ∧ decodeWord 0xDFF0 = .draw 15 15 0 := by decide
theorem test_decode_familyE : decodeWord 0xE49E = .skipKeyPressed 4 ∧ decodeWord 0xE0FE = .skipKeyPressed 0 ∧
    decodeWord 0xE4A1 = .skipKeyNotPressed 4 ∧ decodeWord 0xE011 = .skipKeyNotPressed 0 ∧
    decodeWord 0xE000 = .noOp ∧ decodeWord 0xE09F = .noOp := by decide
theorem test_decode_familyF : decodeWord 0xF507 = .loadDelay 5 ∧ decodeWord 0xF30A = .waitKey 3 ∧
    decodeWord 0xF515 = .setDelay 5 ∧ decodeWord 0xF518 = .setSound 5 ∧ decodeWord 0xF21E = .addIndex 2 ∧
    decodeWord 0xF329 = .loadGlyphAddr 3 ∧ decodeWord 0xF433 = .storeBcd 4 ∧ decodeWord 0xF255 = .storeRegs 2 ∧
    decodeWord 0xFF65 = .loadRegs 15 ∧ decodeWord 0xF017 = .noOp ∧ decodeWord 0xF075 = .noOp := by decide
theorem test_decode_truncated : (match decode [0x12] with | .ok _ => false | .error e => e = .truncated) = true := by
  decide
theorem test_decode_table_word : decodeTableWord 16 0x1234 = some (.jump 0x234) := by decide

/-! ### Assembler (R81 to R83; the image of 95_test_vectors P1) -/

theorem test_asm_operands : asmOperand "x15".toList = .reg 15 ∧ asmOperand "0x2A".toList = .num 42 ∧
    asmOperand "10".toList = .num 10 ∧ asmOperand "loop".toList = .label "loop" := by decide +kernel
theorem test_asm_program_sum : assembleImage [.org 0x200, .line "load-imm" [.reg 0, .num 0],
      .line "load-imm" [.reg 1, .num 10], .label "loop", .line "add-reg" [.reg 0, .reg 1],
      .line "add-imm" [.reg 1, .num 0xFF], .line "skip-eq-imm" [.reg 1, .num 0], .line "jump" [.label "loop"],
      .label "done", .line "jump" [.label "done"]] =
    some [0x60, 0x00, 0x61, 0x0A, 0x80, 0x14, 0x71, 0xFF, 0x31, 0x00, 0x12, 0x04, 0x12, 0x0C] := by decide +kernel
theorem test_asm_refuses_register_16 : asmLine [] "shift-left" [.reg 16] = none ∧
    asmLine [] "nop" [] = some .noOp := by decide +kernel

/-! ### The tick (V40) -/

theorem test_noop_ticks_timers : -- V40-2
    seen ((at200 0x8018).setDelay 3 |>.setSound 1) (fun t => (t.pc, t.dt, t.st)) = some (0x0202, 2, 0) := by decide
theorem test_fetch_wraps_at_4096 : -- V40-3
    seen ((State.reset.setPc 0x0FFF).placeWord 0x6A7F) (fun t => (t.reg 10, t.pc)) = some (0x7F, 0x1001) := by decide
theorem test_pc_wraps_at_65536 : -- V40-4
    seen ((State.reset.setPc 0xFFFE).placeWord 0x0001) (fun t => t.pc) = some 0x0000 := by decide

/-! ### Control transfer (V41) -/

theorem test_return_underflow : -- V40-6
    seen ((at200 0x00EE).setDelay 5) (fun t => (t.fault, t.pc, t.dt, t.sp)) =
      some (.stackUnderflow, 0x0200, 5, 0) := by decide
theorem test_return : -- V41-2
    seen ((((at200 0x0ABE).setSp 2).setSlot 1 0x0ABC).setSlot 0 0x0111) (fun t => (t.pc, t.sp, t.slot 0)) =
      some (0x0ABC, 1, 0x0111) := by decide
theorem test_jump : seen (at200 0x1234) (fun t => t.pc) = some 0x0234 := by decide -- V40-1
theorem test_call : -- V41-5
    seen (at200 0x2300) (fun t => (t.slot 0, t.sp, t.pc)) = some (0x0202, 1, 0x0300) := by decide
theorem test_call_overflow : -- V41-6b
    seen (((at200 0x2200).setSp 16).setDelay 9) (fun t => (t.fault, t.pc, t.sp, t.dt)) =
      some (.stackOverflow, 0x0200, 16, 9) := by decide
theorem test_skipEqImm : seen ((at200 0x332A).setReg 3 0x2A) (fun t => t.pc) = some 0x0204 := by decide -- V41-7
theorem test_skipEqImm_wraps : -- V41-12
    seen ((State.reset.setPc 0xFFFC).placeWord 0x3F00) (fun t => t.pc) = some 0x0000 := by decide
theorem test_skipNeqImm_equal : -- V41-8
    seen ((at200 0x432A).setReg 3 0x2A) (fun t => t.pc) = some 0x0202 := by decide
theorem test_skipNeqImm_differs : seen (at200 0x432A) (fun t => t.pc) = some 0x0204 := by decide -- V41-8b
theorem test_skipEqReg_same : -- V41-9c
    seen ((at200 0x5330).setReg 3 0x55) (fun t => t.pc) = some 0x0204 := by decide
theorem test_skipEqReg_differs : -- V41-9d
    seen (((at200 0x5120).setReg 1 7).setReg 2 8) (fun t => t.pc) = some 0x0202 := by decide
theorem test_skipNeqReg_differs : -- V41-10
    seen (((at200 0x9120).setReg 1 7).setReg 2 8) (fun t => t.pc) = some 0x0204 := by decide
theorem test_skipNeqReg_equal : -- V41-10b
    seen (((at200 0x9125).setReg 1 7).setReg 2 7) (fun t => t.pc) = some 0x0202 := by decide
theorem test_jumpOffset : seen ((at200 0xBFFF).setReg 0 0xFF) (fun t => t.pc) = some 0x10FE := by decide -- V41-11b

/-! ### Loads, ALU, random (V42) -/

theorem test_loadImm : seen (at200 0x6A7F) (fun t => (t.reg 10, t.reg 15)) = some (0x7F, 0) := by decide -- V42-1
theorem test_addImm_wraps : -- V42-2b
    seen ((at200 0x7201).setReg 2 0xFF) (fun t => (t.reg 2, t.reg 15)) = some (0, 0) := by decide
theorem test_move : -- V42-3
    seen (((at200 0x8140).setReg 4 0x33).setReg 1 0x11) (fun t => (t.reg 1, t.reg 4)) = some (0x33, 0x33) := by decide
theorem test_or_leaves_flag : -- V42-4a
    seen ((((at200 0x8121).setReg 1 0xF0).setReg 2 0x0C).setReg 15 0x55) (fun t => (t.reg 1, t.reg 15)) =
      some (0xFC, 0x55) := by decide
theorem test_and_leaves_flag : -- V42-4b
    seen ((((at200 0x8122).setReg 1 0xF5).setReg 2 0x3C).setReg 15 0x55) (fun t => (t.reg 1, t.reg 15)) =
      some (0x34, 0x55) := by decide
theorem test_xor_leaves_flag : -- V42-4c
    seen ((((at200 0x8123).setReg 1 0xF5).setReg 2 0x3C).setReg 15 0x55) (fun t => (t.reg 1, t.reg 15)) =
      some (0xC9, 0x55) := by decide
theorem test_addReg_carry : -- E2
    seen (((at200 0x8124).setReg 1 250).setReg 2 10) (fun t => (t.reg 1, t.reg 15)) = some (4, 1) := by decide
theorem test_addReg_into_flag : -- V42-9
    seen (((at200 0x8F14).setReg 15 0xF0).setReg 1 0x20) (fun t => t.reg 15) = some 0x10 := by decide
theorem test_subReg_equal : -- V42-6a
    seen ((((at200 0x8125).setReg 1 7).setReg 2 7).setReg 15 9) (fun t => (t.reg 1, t.reg 15)) = some (0, 0) := by decide
theorem test_subReg_from_flag : -- V42-11
    seen (((at200 0x81F5).setReg 1 0x30).setReg 15 0x10) (fun t => (t.reg 1, t.reg 15)) = some (0x20, 1) := by decide
theorem test_shiftRight_ignores_y : -- V42-7b
    seen (((at200 0x83F6).setReg 3 0x80).setReg 15 0x33) (fun t => (t.reg 3, t.reg 15)) = some (0x40, 0) := by decide
theorem test_shiftRight_flag_register : -- V42-13
    seen ((at200 0x8F06).setReg 15 0x07) (fun t => t.reg 15) = some 0x03 := by decide
theorem test_subnReg_equal : -- V42-8a
    seen (((at200 0x8127).setReg 1 7).setReg 2 7) (fun t => (t.reg 1, t.reg 15)) = some (0, 1) := by decide
theorem test_subnReg_from_flag : -- V42-12b
    seen (((at200 0x81F7).setReg 1 0x10).setReg 15 0x30) (fun t => (t.reg 1, t.reg 15)) = some (0x20, 1) := by decide
theorem test_shiftLeft_ignores_y : -- V42-7h
    seen (((at200 0x834E).setReg 3 0xFF).setReg 4 0x01) (fun t => (t.reg 3, t.reg 15, t.reg 4)) =
      some (0xFE, 1, 0x01) := by decide
theorem test_shiftLeft_flag_register : -- V42-14
    seen ((at200 0x8F0E).setReg 15 0xC1) (fun t => t.reg 15) = some 0x82 := by decide
theorem test_randomAnd_masks : -- V42-15a
    (after (tick 0xB7 (at200 0xC50F))).map (fun t => t.reg 5) = some 0x07 := by decide

/-! ### Index register and memory transfers (V43) -/

theorem test_setIndex : seen (at200 0xA2F0) (fun t => t.I) = some 0x02F0 := by decide -- V43-1
theorem test_addIndex_past_4095 : -- V43-2b
    seen (((at200 0xF21E).setIndex 0x0FFF).setReg 2 1) (fun t => (t.I, t.reg 15)) = some (0x1000, 0) := by decide
theorem test_addIndex_wraps : -- V43-2c
    seen (((at200 0xF21E).setIndex 0xFFFF).setReg 2 0xFF) (fun t => t.I) = some 0x00FE := by decide
theorem test_loadGlyphAddr : seen ((at200 0xF329).setReg 3 0x0A) (fun t => t.I) = some 0x0082 := by decide -- E7
theorem test_loadGlyphAddr_unmasked : -- V43-3d
    seen ((at200 0xF329).setReg 3 0xFF) (fun t => t.I) = some 0x054B := by decide
theorem test_storeBcd : -- E8
    seen (((at200 0xF433).setReg 4 254).setIndex 0x0300)
      (fun t => (t.readMem 0x300, t.readMem 0x301, t.readMem 0x302, t.I)) = some (2, 5, 4, 0x0300) := by decide
theorem test_storeBcd_wraps : -- V43-4e
    seen (((at200 0xF433).setReg 4 123).setIndex 0x0FFE)
      (fun t => (t.readMem 0xFFE, t.readMem 0xFFF, t.readMem 0)) = some (1, 2, 3) := by decide
theorem test_storeRegs_inclusive : -- V43-5a
    seen ((((((at200 0xF255).setReg 0 0x11).setReg 1 0x22).setReg 2 0x33).setReg 3 0x44).setIndex 0x0400)
      (fun t => (t.readMem 0x400, t.readMem 0x401, t.readMem 0x402, t.readMem 0x403)) =
      some (0x11, 0x22, 0x33, 0x00) := by decide
theorem test_storeRegs_over_itself : -- V43-5c
    seen (((at200 0xF055).setReg 0 0x12).setIndex 0x0200)
      (fun t => (t.readMem 0x200, t.readMem 0x201, t.pc)) = some (0x12, 0x55, 0x0202) := by decide
theorem test_loadRegs_glyphs : -- V43-6b
    seen ((at200 0xFF65).setIndex 0x0050) (fun t => (t.reg 0, t.reg 4, t.reg 14, t.reg 15)) =
      some (0xF0, 0xF0, 0xF0, 0xF0) := by decide
theorem test_loadRegs_wraps : -- V43-6c
    seen (((at200 0xF065).setIndex 0x1200).setReg 0 9) (fun t => t.reg 0) = some 0xF0 := by decide

/-! ### Video (V44) -/

theorem test_draw_bit_order : -- V44-1
    seen ((((at200 0xD011).writeMem 0x300 0xA5).setIndex 0x0300).setReg 15 7)
      (fun t => (onInRow t 0, t.reg 15, t.I)) = some ([0, 2, 5, 7], 0, 0x0300) := by decide +kernel
theorem test_draw_collision_wraps : -- V44-12
    seen (((((at200 0xD121).writeMem 0x300 0x01).setIndex 0x0300).setReg 1 121).setPixel 0 0 true)
      (fun t => (onInRow t 0, t.reg 15)) = some ([], 1) := by decide +kernel
theorem test_clearScreen : -- V44-11
    seen ((((at200 0x0120).setPixel 5 5 true).setPixel 63 31 true).setReg 15 1)
      (fun t => (onInRow t 5, onInRow t 31, t.reg 15)) = some ([], [], 1) := by decide +kernel

/-! ### Keypad and timers (V45) -/

/-- The keys of a list pressed. -/
def press (s : State) (ks : List Nat) : State := s.setKeys (Vector.ofFn fun k : Fin 16 => ks.contains k.val)

theorem test_skipKeyPressed_mod16 : -- V45-1d
    seen (press ((at200 0xE39E).setReg 3 0x25) [5]) (fun t => t.pc) = some 0x0204 := by decide
theorem test_skipKeyPressed_other : -- V45-1b
    seen (press ((at200 0xE39E).setReg 3 5) [4]) (fun t => t.pc) = some 0x0202 := by decide
theorem test_skipKeyNotPressed_down : -- V45-2d
    seen (press ((at200 0xE3F1).setReg 3 0xFF) [15]) (fun t => t.pc) = some 0x0202 := by decide
theorem test_skipKeyNotPressed_up : -- V45-2b
    seen ((at200 0xE3A1).setReg 3 5) (fun t => t.pc) = some 0x0204 := by decide
theorem test_loadDelay : -- V45-3a
    seen ((at200 0xF307).setDelay 0x2A) (fun t => (t.reg 3, t.dt)) = some (0x2A, 0x29) := by decide
theorem test_setDelay : seen ((at200 0xF315).setReg 3 255) (fun t => t.dt) = some 254 := by decide -- V45-4d
theorem test_setDelay_zero : seen ((at200 0xF315).setDelay 7) (fun t => t.dt) = some 0 := by decide -- V45-4b
theorem test_setSound : -- V45-5
    seen ((at200 0xF318).setReg 3 2) (fun t => (t.st, t.soundOn)) = some (1, true) := by decide
theorem test_waitKey_lowest : -- V45-6c
    seen (press (at200 0xF50A) [3, 12, 15]) (fun t => (t.reg 5, t.pc)) = some (3, 0x0202) := by decide
theorem test_waitKey_waits_across_wrap : -- V45-6f
    seen ((State.reset.setPc 0xFFFE).placeWord 0xF50A) (fun t => t.pc) = some 0xFFFE := by decide

/-! ### Reset, load and the host's view (V70) -/

theorem test_reset_memory : -- V70-1
    (State.reset.readMem 0x050, State.reset.readMem 0x09F, State.reset.readMem 0x04F, State.reset.readMem 0x0A0) =
      (0xF0, 0x80, 0, 0) := by decide
theorem test_load_keeps_tail : -- V70-4
    (match State.reset.load [0x12, 0x34] with
      | .ok s => match s.load [0x56] with
        | .ok t => decide ((t.readMem 0x200, t.readMem 0x201) = (0x56, 0x34))
        | .error _ => false
      | .error _ => false) = true := by decide
theorem test_fault_codes : FaultLatch.none.code = 0 ∧ (State.reset.raise .stackUnderflow).faultOut = 2 := by decide
theorem test_step_from_reset : (after (step (State.reset.withFetchWord 16 0x6A7F))).map (fun t => (t.reg 10, t.pc)) =
    some (0x7F, 0x0202) := by decide

/-! ### Witnesses: what meets the hypotheses of each statement that has some -/

theorem witness_rows_select_words :
    0x0FF0#16 &&& 0xF00F = 0x0000 ∧ 0x0ABE#16 &&& 0xF00F = 0x000E ∧ 0x1234#16 &&& 0xF000 = 0x1000 ∧
    0x2300#16 &&& 0xF000 = 0x2000 ∧ 0x332A#16 &&& 0xF000 = 0x3000 ∧ 0x432A#16 &&& 0xF000 = 0x4000 ∧
    0x5AB7#16 &&& 0xF000 = 0x5000 ∧ 0x9AB3#16 &&& 0xF000 = 0x9000 ∧ 0x6A7F#16 &&& 0xF000 = 0x6000 ∧
    0x7220#16 &&& 0xF000 = 0x7000 ∧ 0x8140#16 &&& 0xF00F = 0x8000 ∧ 0x8121#16 &&& 0xF00F = 0x8001 ∧
    0x8122#16 &&& 0xF00F = 0x8002 ∧ 0x8123#16 &&& 0xF00F = 0x8003 ∧ 0x8124#16 &&& 0xF00F = 0x8004 ∧
    0x8125#16 &&& 0xF00F = 0x8005 ∧ 0x8AB6#16 &&& 0xF00F = 0x8006 ∧ 0x8127#16 &&& 0xF00F = 0x8007 ∧
    0x8ABE#16 &&& 0xF00F = 0x800E ∧ 0xA2F0#16 &&& 0xF000 = 0xA000 ∧ 0xBFFF#16 &&& 0xF000 = 0xB000 ∧
    0xC50F#16 &&& 0xF000 = 0xC000 ∧ 0xDFF0#16 &&& 0xF000 = 0xD000 ∧ 0xE0FE#16 &&& 0xF00F = 0xE00E ∧
    0xE011#16 &&& 0xF00F = 0xE001 ∧ 0xF507#16 &&& 0xF0FF = 0xF007 ∧ 0xF30A#16 &&& 0xF0FF = 0xF00A ∧
    0xF515#16 &&& 0xF0FF = 0xF015 ∧ 0xF518#16 &&& 0xF0FF = 0xF018 ∧ 0xF21E#16 &&& 0xF0FF = 0xF01E ∧
    0xF329#16 &&& 0xF0FF = 0xF029 ∧ 0xF433#16 &&& 0xF0FF = 0xF033 ∧ 0xF255#16 &&& 0xF0FF = 0xF055 ∧
    0xFF65#16 &&& 0xF0FF = 0xF065 := by decide
theorem witness_DecoderFollowsOpcodeMap : decodeWord 0x8ABE ≠ .noOp ∧
    0x8ABE#16 &&& maskOf (.shiftLeft 0) = matchOf (.shiftLeft 0) ∧ 0x0FF1#16 &&& maskOf .noOp = matchOf .noOp := by decide
theorem witness_PlacedWordIsFetched : 0 < 65536 ∧ 65535 < 65536 := by decide
theorem witness_StepRunsDecodedInstruction : (at200 0x6A7F).fault = .none ∧
    (match decode [(at200 0x6A7F).readMem 0x200, (at200 0x6A7F).readMem 0x201] with
      | .ok r => decide (r = (.loadImm 10 0x7F, []))
      | .error _ => false) = true ∧ (at200 0x6A7F).pc = 0x200 := by decide
theorem witness_StepRunsDecodedInstruction_fault :
    (seen (at200 0x00EE) (fun t => t.fault)) = some .stackUnderflow ∧
    (match exec .ret (State.reset.setSp 17) with | .fault f => decide (f = .noSuchStackSlot) | _ => false) = true := by
  decide
theorem witness_HaltedTickChangesNothing : (State.reset.raise .stackOverflow).fault ≠ .none := by decide
theorem witness_StackOverflowIsPrecise : ((at200 0x2200).setSp 16).fault = .none ∧
    ((at200 0x2200).setSp 16).fetchWord &&& 0xF000 = 0x2000 ∧ ((at200 0x2200).setSp 16).sp = 16 := by decide
theorem witness_StackUnderflowIsPrecise : (at200 0x00EE).fault = .none ∧
    (at200 0x00EE).fetchWord &&& 0xF00F = 0x000E ∧ (at200 0x00EE).sp = 0 := by decide
theorem witness_OnlyCallAndReturnFault :
    (∃ t, tick 0 (at200 0x00EE) = .next t ∧ t.fault ≠ .none) ∧
    (∃ t, tick 0 ((at200 0x2200).setSp 16) = .next t ∧ t.fault ≠ .none) :=
  ⟨⟨_, rfl, by decide⟩, ⟨_, rfl, by decide⟩⟩
theorem witness_TimersCountDownEveryTick :
    (at200 0x0001).fault = .none ∧ (∃ t, tick 0 (at200 0x0001) = .next t ∧ t.fault = .none) ∧
    decodeWord (at200 0x0001).fetchWord = .noOp ∧
    (∃ t, tick 0 (at200 0xF315) = .next t ∧ t.fault = .none) ∧ decodeWord (at200 0xF315).fetchWord = .setDelay 3 ∧
    (∃ t, tick 0 (at200 0xF318) = .next t ∧ t.fault = .none) ∧ decodeWord (at200 0xF318).fetchWord = .setSound 3 ∧
    (∃ t, tick 0 (at200 0xF307) = .next t ∧ t.fault = .none) ∧ decodeWord (at200 0xF307).fetchWord = .loadDelay 3 :=
  ⟨rfl, ⟨_, rfl, rfl⟩, rfl, ⟨_, rfl, rfl⟩, rfl, ⟨_, rfl, rfl⟩, rfl, ⟨_, rfl, rfl⟩, rfl⟩
/-- A self-jump with `dt = 9`, tick after tick: a run that writes no timer. -/
def selfJump (k : Nat) : State := { at200 0x1200 with ir := if k = 0 then 0 else 0x1200, dt := BitVec.ofNat 8 (9 - k) }
theorem witness_TimersCountDownEveryTick_run : ∀ k < 3, (selfJump k).fault = .none ∧
    (∃ rnd, tick rnd (selfJump k) = .next (selfJump (k + 1))) ∧ (selfJump (k + 1)).fault = .none ∧
    decodeWord (selfJump k).fetchWord = .jump 0x200 := by
  intro k hk
  match k, hk with
  | 0, _ => exact ⟨rfl, ⟨0, rfl⟩, rfl, rfl⟩
  | 1, _ => exact ⟨rfl, ⟨0, rfl⟩, rfl, rfl⟩
  | 2, _ => exact ⟨rfl, ⟨0, rfl⟩, rfl, rfl⟩
theorem witness_RandomByteReachesOnlyRandomAnd : decodeWord (at200 0x8124).fetchWord = .addReg 1 2 := by decide
theorem witness_EveryTickCompletes : State.reset.Inv ∧ (State.reset.setSp 16).Inv := by decide
theorem witness_KeypadIsTheHostsAlone : ∃ t, tick 0 (press State.reset [3]) = .next t := ⟨_, rfl⟩
theorem witness_InstructionsWriteOnlyWhatTheyList : ∃ t, exec (.storeRegs 15) State.reset = .next t := ⟨_, rfl⟩
theorem witness_ResetMeetsInvariant : defaultConfig.wf ∧ (Config.mk 0x1B0 defaultConfig.glyphRom).wf := by decide
theorem witness_StepKeepsInvariant : State.reset.Inv ∧ ∃ t, step State.reset = .next t := ⟨by decide, ⟨_, rfl⟩⟩
theorem witness_ReachableStatesMeetInvariant : Reachable State.reset := .boot _ (by decide)
theorem witness_HostOperationsKeepInvariant : State.reset.Inv ∧
    (∃ t, HostOp.reset.apply State.reset = .next t) ∧ (∃ t, (HostOp.load [0x12, 0x34]).apply State.reset = .next t) ∧
    (∃ t, (HostOp.setKeys (Vector.replicate 16 true)).apply State.reset = .next t) ∧
    (∃ t, (HostOp.tick 0).apply State.reset = .next t) :=
  ⟨by decide, ⟨_, rfl⟩, ⟨_, rfl⟩, ⟨_, rfl⟩, ⟨_, rfl⟩⟩
theorem witness_MemoryReadAfterWrite : Memory.wf State.reset.cfg State.reset.mem = true := by decide
theorem witness_LoadCopiesImage :
    ([] : List Byte).length ≤ 3584 ∧ (List.replicate 3584 (0xAA : Byte)).length ≤ 3584 :=
  ⟨by decide, Nat.le_of_eq List.length_replicate⟩
theorem witness_OversizedImageIsRefused : 3584 < (List.replicate 3585 (0xAA : Byte)).length := by
  rw [List.length_replicate]; decide
theorem witness_FirstInstructionIsImageStart : ∃ t, State.reset.hostReset.load [0x12, 0x34] = .ok t := ⟨_, rfl⟩
theorem witness_EmptyMemoryRunsClearScreen : defaultConfig.wf := by decide
theorem witness_ReturnPopsIntoPc : (State.reset.setSp 1).sp.toNat = (0 : Fin 16).val + 1 ∧
    (State.reset.setSp 16).sp.toNat = (15 : Fin 16).val + 1 ∧ State.reset.sp = 0 := by decide
theorem witness_CallPushesAdvancedPc : State.reset.sp.toNat = (0 : Fin 16).val ∧
    (State.reset.setSp 15).sp.toNat = (15 : Fin 16).val ∧ (State.reset.setSp 16).sp = 16 := by decide
theorem witness_CallThenReturnRestoresPc : (State.reset.setSp 15).sp.toNat < 16 ∧
    ∃ t, exec (.call 0x300) (State.reset.setSp 15) = .next t ∧ (t.setDelay 7).sp = t.sp ∧
      (t.setDelay 7).stack = t.stack := ⟨by decide, ⟨_, rfl, rfl, rfl⟩⟩
theorem witness_NoOpOnlyAdvances : (at200 0x8018).fault = .none ∧ decodeWord (at200 0x8018).fetchWord = .noOp := by decide
theorem witness_FlagRegisterDistinct : (1 : Nib) ≠ 15 ∧ (15 : Nib) = 15 := by decide
theorem witness_RandomAndMasksTheByte : (at200 0xC50F).fault = .none ∧
    decodeWord (at200 0xC50F).fetchWord = .randomAnd 5 0x0F := by decide
theorem witness_LoadGlyphAddrIsExact :
    ({ State.reset with cfg := ⟨0x1B0, defaultConfig.glyphRom⟩ } : State).cfg.wf := by decide
theorem witness_StoreAndLoadRanges : (0 : Nib).toNat ≤ (0 : Nib).toNat ∧ (15 : Nib).toNat ≤ (15 : Nib).toNat := by decide
theorem witness_NextFetchSeesStoredRegisters : 1 ≤ (1 : Nib).toNat ∧
    (State.reset.setIndex 0x0200).I = (State.reset.setIndex 0x0200).pc ∧
    ∃ t, exec (.storeRegs 1) (State.reset.setIndex 0x0200) = .next t := ⟨by decide, by decide, ⟨_, rfl⟩⟩
theorem witness_DrawXorsSpriteAndFlagsCollision :
    (∃ t, exec (.draw 0 0 1) (((State.reset.writeMem 0x300 0x80).setIndex 0x300).setPixel 0 0 true) = .next t ∧
      t.pixel 0 0 = false) ∧
    (∃ t, exec (.draw 0 0 0) State.reset = .next t ∧ ∀ px py, State.reset.pixel px py = false) :=
  ⟨⟨_, rfl, by decide +kernel⟩, ⟨_, rfl, fun _ _ => by simp [State.reset, State.resetWith, State.pixel]⟩⟩
theorem witness_DrawingTwiceRestoresVideo :
    (∃ t, exec (.draw 0 1 5) (State.reset.setIndex 0x0050) = .next t ∧ t.reg 0 = 0 ∧ t.reg 1 = 0) ∧
    (∃ t, exec (.draw 15 15 5) (State.reset.setIndex 0x0050) = .next t ∧ t.reg 15 = 0) :=
  ⟨⟨_, rfl, by decide +kernel, by decide +kernel⟩, ⟨_, rfl, by decide +kernel⟩⟩
theorem witness_KeySkipsTestTheSelectedKey :
    (15 : Nib).toNat = ((State.reset.setReg 3 0xFF).reg 3).toNat % 16 ∧
    (0 : Nib).toNat = ((State.reset.setReg 3 0x10).reg 3).toNat % 16 := by decide
theorem witness_WaitKeyTakesLowestKeyOrWaits :
    (press State.reset [3, 12]).key 3 = true ∧
    (∀ j : Nib, j.toNat < (3 : Nib).toNat → (press State.reset [3, 12]).key j = false) ∧
    (press State.reset [15]).key 15 = true ∧
    (∀ j : Nib, j.toNat < (15 : Nib).toNat → (press State.reset [15]).key j = false) ∧
    (∀ k : Nib, State.reset.key k = false) ∧ (∀ k : Nib, (at200 0xF50A).key k = false) ∧
    decodeWord (at200 0xF50A).fetchWord = .waitKey 5 ∧ (at200 0xF50A).fault = .none := by decide +kernel

end Sys2Proof.Tests
end

section
/-! PROOFS. The state's invariant (10_state R30) and the keypad (R21): what executing an instruction, a tick and each
operation of the host keeps, and that a return undoes a call. -/

namespace Sys2Proof.Machine

/-! ### Call and return -/

/-- The slots are exactly those of the numbers 0 to 15 (R31). -/
theorem slotAt_eq_some {n : Nat} {k : Fin 16} : slotAt n = some k ↔ n = k.val := by
  unfold slotAt
  split
  · simp [Fin.ext_iff]
  · have hk := k.isLt
    simp only [reduceCtorEq, false_iff]
    omega

/-- A call with a free slot pushes the advanced `pc` and jumps (R102). -/
theorem exec_call_of_free {s : State} (nnn : Addr) {k : Fin 16} (h : s.sp.toNat = k.val) :
    exec (.call nnn) s = .next (((s.setSlot k s.pc).setSp (s.sp + 1)).setPc (nnn.setWidth 16)) := by
  have hk := k.isLt
  have hne : s.sp ≠ 16 := by bv_omega
  simp only [exec, execCall, if_neg hne, slotAt_eq_some.2 h]

/-- A return with an active call pops the top slot into `pc` (R100). -/
theorem exec_ret_of_active {s : State} {k : Fin 16} (h : s.sp.toNat = k.val + 1) :
    exec .ret s = .next ((s.setSp (s.sp - 1)).setPc (s.slot k)) := by
  have hne : s.sp ≠ 0 := by bv_omega
  have hk : slotAt (s.sp.toNat - 1) = some k := slotAt_eq_some.2 (by omega)
  simp only [exec, execRet, if_neg hne, hk]

/-- Every next state of a call: the overflow raised with all slots in use, or the push (R102, R191). -/
theorem exec_call_cases {s t : State} {nnn : Addr} (h : exec (.call nnn) s = .next t) :
    (s.sp = 16 ∧ t = s.raise .stackOverflow) ∨
    ∃ k : Fin 16, s.sp.toNat = k.val ∧ t = ((s.setSlot k s.pc).setSp (s.sp + 1)).setPc (nnn.setWidth 16) := by
  simp only [exec, execCall] at h
  split at h
  · next h16 => exact .inl ⟨h16, (Host.Outcome.next.inj h).symm⟩
  · split at h
    · next k hk => exact .inr ⟨k, slotAt_eq_some.1 hk, (Host.Outcome.next.inj h).symm⟩
    · cases h

/-- Every next state of a return: the underflow raised on an empty stack, or the pop (R100, R192). -/
theorem exec_ret_cases {s t : State} (h : exec .ret s = .next t) :
    (s.sp = 0 ∧ t = s.raise .stackUnderflow) ∨
    ∃ k : Fin 16, s.sp.toNat = k.val + 1 ∧ t = (s.setSp (s.sp - 1)).setPc (s.slot k) := by
  simp only [exec, execRet] at h
  split at h
  · next h0 => exact .inl ⟨h0, (Host.Outcome.next.inj h).symm⟩
  · next h0 =>
    split at h
    · next k hk =>
      have hval : s.sp.toNat - 1 = k.val := slotAt_eq_some.1 hk
      exact .inr ⟨k, by bv_omega, (Host.Outcome.next.inj h).symm⟩
    · cases h

/-- Settles O29: the call stores the advanced `pc` in slot `sp` and raises `sp` by one, so the later return reads that
slot; the slots below differ from it. -/
theorem callThenReturnRestoresPc : Obligations.CallThenReturnRestoresPc := by
  intro s t u nnn hsp hcall husp hustack
  obtain ⟨top, htop⟩ : ∃ top : Fin 16, s.sp.toNat = top.val := ⟨⟨_, hsp⟩, rfl⟩
  rw [exec_call_of_free nnn htop] at hcall
  obtain rfl := Host.Outcome.next.inj hcall
  rw [setPc_sp, setSp_sp] at husp
  have hslot : ∀ k, u.slot k = if k = top then s.pc else s.slot k := fun k => by
    rw [← slot_setSlot]
    simp only [State.slot, hustack, setPc_stack, setSp_stack]
  have hactive : u.sp.toNat = top.val + 1 := by
    rw [husp]
    bv_omega
  refine ⟨_, exec_ret_of_active hactive, ?_, ?_, fun k hk => ?_⟩
  · rw [setPc_pc, hslot, if_pos rfl]
  · rw [setPc_sp, setSp_sp, husp, BitVec.add_sub_cancel]
  · have hne : k ≠ top := fun h => by omega
    rw [setPc_slot, setSp_slot, hslot, if_neg hne]

/-! ### What executing an instruction keeps -/

/-- What every execution of an instruction does to the parts of the state that the invariant and the host speak of. -/
structure ExecKeeps (i : Instr) (s t : State) : Prop where
  keys : t.keys = s.keys
  cfg : t.cfg = s.cfg
  mem : Memory.wf s.cfg s.mem = true → Memory.wf t.cfg t.mem = true
  sp : s.sp.toNat ≤ 16 → t.sp.toNat ≤ 16
  fault : t.fault = s.fault ∨
    ((∃ nnn, i = .call nnn) ∧ s.sp = 16 ∧ t = s.raise .stackOverflow) ∨
    (i = .ret ∧ s.sp = 0 ∧ t = s.raise .stackUnderflow)

/-- A call raises `sp` only where a slot is free. -/
theorem exec_call_keeps {s t : State} {nnn : Addr} (h : exec (.call nnn) s = .next t) :
    ExecKeeps (.call nnn) s t := by
  rcases exec_call_cases h with ⟨h16, rfl⟩ | ⟨k, hk, rfl⟩
  · exact ⟨rfl, rfl, id, id, .inr (.inl ⟨⟨nnn, rfl⟩, h16, rfl⟩)⟩
  · refine ⟨rfl, rfl, id, fun _ => ?_, .inl rfl⟩
    have hk16 := k.isLt
    rw [setPc_sp, setSp_sp]
    bv_omega

/-- A return lowers `sp` only where a call is active. -/
theorem exec_ret_keeps {s t : State} (h : exec .ret s = .next t) : ExecKeeps .ret s t := by
  rcases exec_ret_cases h with ⟨h0, rfl⟩ | ⟨k, hk, rfl⟩
  · exact ⟨rfl, rfl, id, id, .inr (.inr ⟨rfl, h0, rfl⟩)⟩
  · refine ⟨rfl, rfl, id, fun _ => ?_, .inl rfl⟩
    have hk16 := k.isLt
    rw [setPc_sp, setSp_sp]
    bv_omega

/-- Only the host writes the keypad and the parameters; a store keeps memory's canonical form; only call and return
touch `sp` and the latch, and only a call with `sp = 16` or a return with `sp = 0` raises a fault (R94, R190). -/
theorem exec_keeps {i : Instr} {s t : State} (h : exec i s = .next t) : ExecKeeps i s t := by
  cases i with
  | call nnn => exact exec_call_keeps h
  | ret => exact exec_ret_keeps h
  | storeBcd x =>
    obtain rfl := Host.Outcome.next.inj h
    exact ⟨rfl, rfl, fun hw => writeMem_wf _ _ _ (writeMem_wf _ _ _ (writeMem_wf _ _ _ hw)), id, .inl rfl⟩
  | storeRegs x =>
    obtain rfl := Host.Outcome.next.inj h
    have hwf := foldl_storeOne_wf s (x.toNat + 1) s
    obtain ⟨m, hm⟩ := foldl_storeOne_eq s (x.toNat + 1) s
    rw [hm] at hwf ⊢
    exact ⟨rfl, rfl, hwf, id, .inl rfl⟩
  | loadRegs x =>
    obtain rfl := Host.Outcome.next.inj h
    obtain ⟨xs, hx⟩ := foldl_loadOne_eq s (x.toNat + 1) s
    rw [hx]
    exact ⟨rfl, rfl, id, id, .inl rfl⟩
  | draw x y n =>
    obtain rfl := Host.Outcome.next.inj h
    rw [foldl_drawRow_eq, foldl_flipCell_eq]
    exact ⟨rfl, rfl, id, id, .inl rfl⟩
  | waitKey x =>
    simp only [exec, execWaitKey] at h
    split at h <;> obtain rfl := Host.Outcome.next.inj h <;> exact ⟨rfl, rfl, id, id, .inl rfl⟩
  | skipEqImm x kk | skipNeqImm x kk | skipEqReg x y | skipNeqReg x y | skipKeyPressed x | skipKeyNotPressed x =>
    obtain rfl := Host.Outcome.next.inj h
    rw [skipIf_eq]
    exact ⟨rfl, rfl, id, id, .inl rfl⟩
  | _ =>
    obtain rfl := Host.Outcome.next.inj h
    exact ⟨rfl, rfl, id, id, .inl rfl⟩

/-! ### The tick -/

/-- The end of a tick leaves the keypad and the parameters as the instruction and the tick's beginning left them. -/
theorem finishTick_keys_cfg {s t : State} (hk : t.keys = s.keys) (hc : t.cfg = s.cfg) :
    (s.finishTick t).keys = s.keys ∧ (s.finishTick t).cfg = s.cfg := by
  by_cases hf : t.fault = .none
  · rw [finishTick_of_ok s hf]; exact ⟨hk, hc⟩
  · rw [finishTick_of_fault s hf]; exact ⟨rfl, rfl⟩

/-- Settles O15: no instruction writes the keypad or the parameters, nor does the end of a tick. -/
theorem keypadIsTheHostsAlone : Obligations.KeypadIsTheHostsAlone := by
  refine ⟨fun s u rnd h => ?_, fun s k => ⟨fun _ => rfl, rfl⟩⟩
  rcases tick_cases h with ⟨-, rfl⟩ | ⟨-, t, ht, rfl⟩
  · exact ⟨rfl, rfl⟩
  · have k := exec_keeps ht
    exact finishTick_keys_cfg k.keys k.cfg

/-- A tick keeps the invariant: without a fault the instruction keeps every clause, and a faulting tick latches the fault
in the state it began in, whose `sp` is the one the fault was raised with (R195). -/
theorem tick_inv {s u : State} {rnd : Byte} (hs : s.Inv) (h : tick rnd s = .next u) : u.Inv := by
  rcases tick_cases h with ⟨-, rfl⟩ | ⟨hrun, t, ht, rfl⟩
  · exact hs
  obtain ⟨hsp, -, -, hmem, hcfg⟩ := hs
  have k := exec_keeps ht
  by_cases hok : t.fault = .none
  · rw [finishTick_of_ok s hok]
    have hwf : t.cfg.wf := k.cfg ▸ hcfg
    exact ⟨k.sp hsp, by simp [hok], by simp [hok], k.mem hmem, hwf⟩
  · rw [finishTick_of_fault s hok]
    rcases k.fault with hsame | ⟨-, h16, rfl⟩ | ⟨-, h0, rfl⟩
    · exact absurd (hsame.trans hrun) hok
    · exact ⟨hsp, fun _ => h16, by simp, hmem, hcfg⟩
    · exact ⟨hsp, by simp, fun _ => h0, hmem, hcfg⟩

/-- Settles O18: a step is a tick. -/
theorem stepKeepsInvariant : Obligations.StepKeepsInvariant :=
  fun _ _ hs h => tick_inv hs h

/-! ### The operations of the host -/

/-- The reset state meets the invariant for every admissible choice of the parameters. -/
theorem resetWith_inv {c : Config} (hc : c.wf) : (State.resetWith c).Inv :=
  ⟨Nat.zero_le _, by simp [State.resetWith], by simp [State.resetWith], resetWith_wf c, hc⟩

/-- Settles O17: the default parameters are admissible. -/
theorem resetMeetsInvariant : Obligations.ResetMeetsInvariant :=
  ⟨resetWith_inv (by decide), fun _ => resetWith_inv⟩

/-- Writing bytes changes memory only. -/
theorem writeBytes_eq (bs : List Byte) (s : State) (a : Nat) : ∃ m, s.writeBytes a bs = { s with mem := m } := by
  induction bs generalizing s a with
  | nil => exact ⟨_, rfl⟩
  | cons b bs ih => exact ih (s.writeMem a b) (a + 1)

/-- Writing bytes keeps the invariant. -/
theorem writeBytes_inv {s : State} (hs : s.Inv) (a : Nat) (bs : List Byte) : (s.writeBytes a bs).Inv := by
  obtain ⟨hsp, hover, hunder, hmem, hcfg⟩ := hs
  have hwf := writeBytes_wf bs s a hmem
  obtain ⟨m, hm⟩ := writeBytes_eq bs s a
  rw [hm] at hwf ⊢
  exact ⟨hsp, hover, hunder, hwf, hcfg⟩

/-- Settles O58: reset starts over with the same parameters, load writes bytes or nothing, setKeys writes no part the
invariant speaks of, and a tick keeps the invariant. -/
theorem hostOperationsKeepInvariant : Obligations.HostOperationsKeepInvariant := by
  intro o s t hs h
  cases o with
  | reset =>
    obtain ⟨-, -, -, -, hcfg⟩ := hs
    obtain rfl := Host.Outcome.next.inj h
    exact resetWith_inv hcfg
  | load image =>
    simp only [HostOp.apply, State.load] at h
    by_cases hi : WellFormed.isImage image = true
    · rw [if_pos hi] at h
      obtain rfl := Host.Outcome.next.inj h
      exact writeBytes_inv hs _ _
    · rw [if_neg hi] at h
      obtain rfl := Host.Outcome.next.inj h
      exact hs
  | setKeys k =>
    obtain rfl := Host.Outcome.next.inj h
    exact hs
  | tick rnd => exact tick_inv hs h

/-- Settles O19, by induction on the operations performed since the first reset. -/
theorem reachableStatesMeetInvariant : Obligations.ReachableStatesMeetInvariant := by
  intro s hs
  induction hs with
  | boot c hc => exact resetWith_inv hc
  | op o _ ht ih => exact hostOperationsKeepInvariant o _ _ ih ht

end Sys2Proof.Machine
end

section
/-! PROOFS. Memory (20_memory): addresses modulo 4096 (R57), reads after writes, and the word a fetch combines from two
bytes (R54), also where those bytes have just been stored (R65). -/

namespace Sys2Proof.Machine

/-! ### Reads and writes -/

/-- A read sees its address modulo 4096 only (R57). -/
theorem readMem_mod (s : State) (a : Nat) : s.readMem (a % 4096) = s.readMem a := by
  simp only [State.readMem, Nat.mod_mod]

/-- Settles O20: the read after a write and the canonical form are the memory laws `readMem_writeMem` and
`writeMem_wf`. -/
theorem memoryReadAfterWrite : Obligations.MemoryReadAfterWrite := by
  intro s a v
  exact ⟨fun c => (readMem_mod s c).symm, readMem_writeMem s a v, ⟨_, rfl⟩, writeMem_wf s a v⟩

/-! ### The fetched word -/

/-- Settles O7: the fetched word is made of the two bytes by `Word.ofBytes`. -/
theorem fetchIsBigEndian : Obligations.FetchIsBigEndian :=
  fun _ => ofBytes_toNat _ _

/-- A placed word is the word fetched: its two bytes lie at different addresses, at the end of memory too. -/
@[simp] theorem fetchWord_placeWord (s : State) (w : Word) : (s.placeWord w).fetchWord = w := by
  have hne : s.pc.toNat % 4096 ≠ (s.pc.toNat + 1) % 4096 := by omega
  simp only [State.fetchWord, State.placeWord, writeMem_pc, readMem_writeMem, if_neg hne, if_true, ofBytes_hi_lo]

/-- A 16-bit number is the value of its table word. -/
theorem tableWord_toNat {w : Nat} (hw : w < 65536) : (tableWord 16 w).toNat = w := by
  simp only [tableWord, BitVec.toNat_ofNat, Nat.mod_mod]
  exact Nat.mod_eq_of_lt hw

/-- The table decoder decodes its table word. -/
theorem decodeTableWord_eq (nbits w : Nat) : decodeTableWord nbits w = some (decodeWord (tableWord nbits w)) := by
  simp only [decodeTableWord, decode, ofBytes_hi_lo]

/-- Settles O5: the fetch from the state with the word placed reads that table word. -/
theorem placedWordIsFetched : Obligations.PlacedWordIsFetched := by
  intro s w hw
  have hfetch : (s.withFetchWord 16 w).fetchWord = tableWord 16 w := fetchWord_placeWord s _
  rw [hfetch]
  exact ⟨tableWord_toNat hw, decodeTableWord_eq 16 w⟩

/-! ### A store at `pc` -/

/-- store-regs leaves register `i` at `I + i` for every `i` up to `X` (R144). -/
theorem readMem_of_exec_storeRegs {s t : State} {x : Nib} (h : exec (.storeRegs x) s = .next t) {i : Nat}
    (hi : i ≤ x.toNat) : t.readMem (s.I.toNat + i) = s.reg (BitVec.ofNat 4 i) := by
  obtain rfl := Host.Outcome.next.inj h
  have hread := (readMem_foldl_storeOne s (x.toNat + 1) x.isLt s).1 i (Nat.lt_succ_of_le hi)
  rwa [State.effAddr, readMem_mod] at hread

/-- store-regs leaves `pc` as it was (R144). -/
theorem pc_of_exec_storeRegs {s t : State} {x : Nib} (h : exec (.storeRegs x) s = .next t) : t.pc = s.pc := by
  obtain rfl := Host.Outcome.next.inj h
  obtain ⟨m, hm⟩ := foldl_storeOne_eq s (x.toNat + 1) s
  rw [hm]

/-- Settles O50: with `I = pc`, the two bytes the fetch reads are registers 0 and 1 as stored. -/
theorem nextFetchSeesStoredRegisters : Obligations.NextFetchSeesStoredRegisters := by
  intro s t x hx hI h
  have hhi : t.readMem s.pc.toNat = s.reg 0 := hI ▸ readMem_of_exec_storeRegs h (Nat.zero_le _)
  have hlo : t.readMem (s.pc.toNat + 1) = s.reg 1 := hI ▸ readMem_of_exec_storeRegs h hx
  rw [State.fetchWord, pc_of_exec_storeRegs h, hhi, hlo]

end Sys2Proof.Machine
end

section
/-! PROOFS. Encoding (30_encoding): the opcode map's rows against the decoder (R74 to R80), and the canonical words
against both (R81). -/

namespace Sys2Proof

/-! ### The words of a row, by their dispatch keys -/

/-- The words of a family lie in its row with mask 0xF000 (R75). -/
theorem match_of_family {w : Word} {f : Nib} (hF : fieldF w = f) : w &&& 0xF000 = wordXYN f 0 0 0 := by
  rw [word_nibbles w, hF]
  exact Laws.CanonicalWord.of_wordXYN_family _ _ _ _

/-- The words with a family and a low nibble lie in that row with mask 0xF00F (R75). -/
theorem match_of_nibble {w : Word} {f n : Nib} (hF : fieldF w = f) (hN : fieldN w = n) :
    w &&& 0xF00F = wordXYN f 0 0 n := by
  rw [word_nibbles w, hF, hN]
  exact Laws.CanonicalWord.of_wordXYN_nibble _ _ _ _

/-- A word is its family, register and low byte. -/
theorem word_family_register_byte (w : Word) : w = wordXK (fieldF w) (fieldX w) (fieldKK w) := by
  apply BitVec.eq_of_getLsbD_eq
  intro i hi
  simp only [wordXK, fieldF, fieldX, fieldKK, BitVec.getLsbD_append, BitVec.getLsbD_extractLsb']
  interval_cases i <;> simp

/-- The words with a family and a low byte lie in that row with mask 0xF0FF (R75). -/
theorem match_of_byte {w : Word} {f : Nib} {kk : Byte} (hF : fieldF w = f) (hKK : fieldKK w = kk) :
    w &&& 0xF0FF = wordXK f 0 kk := by
  rw [word_family_register_byte w, hF, hKK]
  exact Laws.CanonicalWord.of_wordXK_byte _ _ _

/-! ### The second level of the decoder -/

theorem decodeWord_of_family0 {w : Word} (h : fieldF w = 0x0) : decodeWord w = decodeFamily0 w := by
  rw [decodeWord, h]
  rfl

theorem decodeWord_of_family8 {w : Word} (h : fieldF w = 0x8) : decodeWord w = decodeFamily8 w := by
  rw [decodeWord, h]
  rfl

theorem decodeWord_of_familyE {w : Word} (h : fieldF w = 0xE) : decodeWord w = decodeFamilyE w := by
  rw [decodeWord, h]
  rfl

theorem decodeWord_of_familyF {w : Word} (h : fieldF w = 0xF) : decodeWord w = decodeFamilyF w := by
  rw [decodeWord, h]
  rfl

/-! ### From a row to its instruction -/

/-- The instruction of the same mnemonic with its operands taken from the fields of `w` (R71, R72). -/
def Instr.withOperandsOf (w : Word) : Instr → Instr
  | .clearScreen => .clearScreen
  | .ret => .ret
  | .jump _ => .jump (fieldNNN w)
  | .call _ => .call (fieldNNN w)
  | .skipEqImm _ _ => .skipEqImm (fieldX w) (fieldKK w)
  | .skipNeqImm _ _ => .skipNeqImm (fieldX w) (fieldKK w)
  | .skipEqReg _ _ => .skipEqReg (fieldX w) (fieldY w)
  | .skipNeqReg _ _ => .skipNeqReg (fieldX w) (fieldY w)
  | .loadImm _ _ => .loadImm (fieldX w) (fieldKK w)
  | .addImm _ _ => .addImm (fieldX w) (fieldKK w)
  | .move _ _ => .move (fieldX w) (fieldY w)
  | .orReg _ _ => .orReg (fieldX w) (fieldY w)
  | .andReg _ _ => .andReg (fieldX w) (fieldY w)
  | .xorReg _ _ => .xorReg (fieldX w) (fieldY w)
  | .addReg _ _ => .addReg (fieldX w) (fieldY w)
  | .subReg _ _ => .subReg (fieldX w) (fieldY w)
  | .shiftRight _ => .shiftRight (fieldX w)
  | .subnReg _ _ => .subnReg (fieldX w) (fieldY w)
  | .shiftLeft _ => .shiftLeft (fieldX w)
  | .setIndex _ => .setIndex (fieldNNN w)
  | .jumpOffset _ => .jumpOffset (fieldNNN w)
  | .randomAnd _ _ => .randomAnd (fieldX w) (fieldKK w)
  | .draw _ _ _ => .draw (fieldX w) (fieldY w) (fieldN w)
  | .skipKeyPressed _ => .skipKeyPressed (fieldX w)
  | .skipKeyNotPressed _ => .skipKeyNotPressed (fieldX w)
  | .loadDelay _ => .loadDelay (fieldX w)
  | .waitKey _ => .waitKey (fieldX w)
  | .setDelay _ => .setDelay (fieldX w)
  | .setSound _ => .setSound (fieldX w)
  | .addIndex _ => .addIndex (fieldX w)
  | .loadGlyphAddr _ => .loadGlyphAddr (fieldX w)
  | .storeBcd _ => .storeBcd (fieldX w)
  | .storeRegs _ => .storeRegs (fieldX w)
  | .loadRegs _ => .loadRegs (fieldX w)
  | .noOp => .noOp

/-- A row is one of a mnemonic: its mask does not depend on the operands. -/
@[simp] theorem maskOf_withOperandsOf (w : Word) (i : Instr) : maskOf (i.withOperandsOf w) = maskOf i := by
  cases i <;> rfl

/-- A row is one of a mnemonic: its match does not depend on the operands. -/
@[simp] theorem matchOf_withOperandsOf (w : Word) (i : Instr) : matchOf (i.withOperandsOf w) = matchOf i := by
  cases i <;> rfl

/-- A word in an instruction's row decodes to that row's instruction, with the operands of the word (R74, R80): the row
fixes the family and, in families 0, 8, E and F, the key of the second level.  For `Selects` of a row, apply it to any
instruction of that row. -/
theorem decodeWord_of_match {i : Instr} {w : Word} (h : w &&& maskOf i = matchOf i) :
    decodeWord w = i.withOperandsOf w := by
  cases i <;> dsimp only [maskOf, matchOf] at h
  case clearScreen | ret | noOp =>
    have hF : fieldF w = _ := fieldF_of_match rfl h
    have hN : fieldN w = _ := fieldN_of_match rfl h
    rw [decodeWord_of_family0 hF, decodeFamily0, hN]
    rfl
  case move | orReg | andReg | xorReg | addReg | subReg | shiftRight | subnReg | shiftLeft =>
    have hF : fieldF w = _ := fieldF_of_match rfl h
    have hN : fieldN w = _ := fieldN_of_match rfl h
    rw [decodeWord_of_family8 hF, decodeFamily8, hN]
    rfl
  case skipKeyPressed | skipKeyNotPressed =>
    have hF : fieldF w = _ := fieldF_of_match rfl h
    have hN : fieldN w = _ := fieldN_of_match rfl h
    rw [decodeWord_of_familyE hF, decodeFamilyE, hN]
    rfl
  case loadDelay | waitKey | setDelay | setSound | addIndex | loadGlyphAddr | storeBcd | storeRegs | loadRegs =>
    have hF : fieldF w = _ := fieldF_of_match rfl h
    have hKK : fieldKK w = _ := fieldKK_of_match rfl h
    rw [decodeWord_of_familyF hF, decodeFamilyF, hKK]
    rfl
  all_goals
    have hF : fieldF w = _ := fieldF_of_match rfl h
    rw [decodeWord, hF]
    rfl

/-! ### Canonical words -/

/-- The canonical word of an instruction carries that instruction's operands (R81). -/
theorem withOperandsOf_encode (i : Instr) : i.withOperandsOf (encode i) = i := by
  cases i <;> simp [Instr.withOperandsOf, encode]

/-- The canonical word of every instruction lies in the instruction's row (R75, R81). -/
theorem encode_match (i : Instr) : encode i &&& maskOf i = matchOf i := by
  cases i with
  | clearScreen => exact Laws.CanonicalWord.clearScreen
  | ret => exact Laws.CanonicalWord.ret
  | jump nnn => exact Laws.CanonicalWord.jump nnn
  | call nnn => exact Laws.CanonicalWord.call nnn
  | skipEqImm x kk => exact Laws.CanonicalWord.skipEqImm x kk
  | skipNeqImm x kk => exact Laws.CanonicalWord.skipNeqImm x kk
  | skipEqReg x y => exact Laws.CanonicalWord.skipEqReg x y
  | skipNeqReg x y => exact Laws.CanonicalWord.skipNeqReg x y
  | loadImm x kk => exact Laws.CanonicalWord.loadImm x kk
  | addImm x kk => exact Laws.CanonicalWord.addImm x kk
  | move x y => exact Laws.CanonicalWord.move x y
  | orReg x y => exact Laws.CanonicalWord.orReg x y
  | andReg x y => exact Laws.CanonicalWord.andReg x y
  | xorReg x y => exact Laws.CanonicalWord.xorReg x y
  | addReg x y => exact Laws.CanonicalWord.addReg x y
  | subReg x y => exact Laws.CanonicalWord.subReg x y
  | shiftRight x => exact Laws.CanonicalWord.shiftRight x
  | subnReg x y => exact Laws.CanonicalWord.subnReg x y
  | shiftLeft x => exact Laws.CanonicalWord.shiftLeft x
  | setIndex nnn => exact Laws.CanonicalWord.setIndex nnn
  | jumpOffset nnn => exact Laws.CanonicalWord.jumpOffset nnn
  | randomAnd x kk => exact Laws.CanonicalWord.randomAnd x kk
  | draw x y n => exact Laws.CanonicalWord.draw x y n
  | skipKeyPressed x => exact Laws.CanonicalWord.skipKeyPressed x
  | skipKeyNotPressed x => exact Laws.CanonicalWord.skipKeyNotPressed x
  | loadDelay x => exact Laws.CanonicalWord.loadDelay x
  | waitKey x => exact Laws.CanonicalWord.waitKey x
  | setDelay x => exact Laws.CanonicalWord.setDelay x
  | setSound x => exact Laws.CanonicalWord.setSound x
  | addIndex x => exact Laws.CanonicalWord.addIndex x
  | loadGlyphAddr x => exact Laws.CanonicalWord.loadGlyphAddr x
  | storeBcd x => exact Laws.CanonicalWord.storeBcd x
  | storeRegs x => exact Laws.CanonicalWord.storeRegs x
  | loadRegs x => exact Laws.CanonicalWord.loadRegs x
  | noOp => exact Laws.CanonicalWord.noOp

/-- Decoding the canonical word of an instruction gives it back (R81). -/
theorem decodeWord_encode (i : Instr) : decodeWord (encode i) = i := by
  rw [decodeWord_of_match (encode_match i), withOperandsOf_encode]

/-- Settles O2: the two bytes make the canonical word again, and that lies in the instruction's row. -/
theorem decodeEncodeRoundTrip : Obligations.DecodeEncodeRoundTrip := by
  intro i rest
  simp only [encodeBytes, List.cons_append, List.nil_append, decode, ofBytes_hi_lo, decodeWord_encode]

/-! ### From an instruction to its row -/

/-- A word of family 0 has no handler or lies in its handler's row. -/
theorem decodeFamily0_match {w : Word} (hF : fieldF w = 0x0) :
    decodeFamily0 w = .noOp ∨ w &&& maskOf (decodeFamily0 w) = matchOf (decodeFamily0 w) := by
  unfold decodeFamily0
  split
  case h_3 => exact .inl rfl
  all_goals next hN => exact .inr (match_of_nibble hF hN)

/-- A word of family 8 has no handler or lies in its handler's row. -/
theorem decodeFamily8_match {w : Word} (hF : fieldF w = 0x8) :
    decodeFamily8 w = .noOp ∨ w &&& maskOf (decodeFamily8 w) = matchOf (decodeFamily8 w) := by
  unfold decodeFamily8
  split
  case h_10 => exact .inl rfl
  all_goals next hN => exact .inr (match_of_nibble hF hN)

/-- A word of family E has no handler or lies in its handler's row. -/
theorem decodeFamilyE_match {w : Word} (hF : fieldF w = 0xE) :
    decodeFamilyE w = .noOp ∨ w &&& maskOf (decodeFamilyE w) = matchOf (decodeFamilyE w) := by
  unfold decodeFamilyE
  split
  case h_3 => exact .inl rfl
  all_goals next hN => exact .inr (match_of_nibble hF hN)

/-- A word of family F has no handler or lies in its handler's row. -/
theorem decodeFamilyF_match {w : Word} (hF : fieldF w = 0xF) :
    decodeFamilyF w = .noOp ∨ w &&& maskOf (decodeFamilyF w) = matchOf (decodeFamilyF w) := by
  unfold decodeFamilyF
  split
  case h_10 => exact .inl rfl
  all_goals next hKK => exact .inr (match_of_byte hF hKK)

/-- What the first level of the decoder does with a word: it hands a word of family 0, 8, E or F to the second level,
and gives every other word the one handler of its family, in whose row the word lies (R74). -/
theorem decodeWord_cases (w : Word) :
    (fieldF w = 0x0 ∧ decodeWord w = decodeFamily0 w) ∨ (fieldF w = 0x8 ∧ decodeWord w = decodeFamily8 w) ∨
    (fieldF w = 0xE ∧ decodeWord w = decodeFamilyE w) ∨ (fieldF w = 0xF ∧ decodeWord w = decodeFamilyF w) ∨
    (fieldF w ∉ [0x0#4, 0x8, 0xE, 0xF] ∧ decodeWord w ≠ .noOp ∧
      w &&& maskOf (decodeWord w) = matchOf (decodeWord w)) := by
  unfold decodeWord
  split
  case h_1 hF => exact .inl ⟨hF, rfl⟩
  case h_9 hF => exact .inr (.inl ⟨hF, rfl⟩)
  case h_15 hF => exact .inr (.inr (.inl ⟨hF, rfl⟩))
  case h_16 =>
    have hF : fieldF w = 0xF := by
      simp only [imp_false] at *
      bv_omega
    exact .inr (.inr (.inr (.inl ⟨hF, rfl⟩)))
  all_goals next hF =>
    exact .inr (.inr (.inr (.inr ⟨by simp [hF], Instr.noConfusion, match_of_family hF⟩)))

/-- Settles O3: a word with a handler lies in the row of the handler, and a word of a row decodes to that row's
instruction. -/
theorem decoderFollowsOpcodeMap : Obligations.DecoderFollowsOpcodeMap := by
  refine ⟨fun w hw => ?_, fun i w h => ?_⟩
  · rcases decodeWord_cases w with ⟨hF, hd⟩ | ⟨hF, hd⟩ | ⟨hF, hd⟩ | ⟨hF, hd⟩ | ⟨-, -, hrow⟩
    · exact hd ▸ (decodeFamily0_match hF).resolve_left (hd ▸ hw)
    · exact hd ▸ (decodeFamily8_match hF).resolve_left (hd ▸ hw)
    · exact hd ▸ (decodeFamilyE_match hF).resolve_left (hd ▸ hw)
    · exact hd ▸ (decodeFamilyF_match hF).resolve_left (hd ▸ hw)
    · exact hrow
  · rw [decodeWord_of_match h, maskOf_withOperandsOf, matchOf_withOperandsOf]
    exact ⟨rfl, rfl⟩

/-! ### Unassigned words -/

theorem decodeFamily0_eq_noOp {w : Word} : decodeFamily0 w = .noOp ↔ fieldN w ≠ 0x0 ∧ fieldN w ≠ 0xE := by
  unfold decodeFamily0
  split <;> simp_all

theorem decodeFamily8_eq_noOp {w : Word} : decodeFamily8 w = .noOp ↔ 0x8 ≤ (fieldN w).toNat ∧ fieldN w ≠ 0xE := by
  unfold decodeFamily8
  split
  case h_10 =>
    simp only [imp_false, true_iff] at *
    bv_omega
  all_goals simp [*]

theorem decodeFamilyE_eq_noOp {w : Word} : decodeFamilyE w = .noOp ↔ fieldN w ≠ 0x1 ∧ fieldN w ≠ 0xE := by
  unfold decodeFamilyE
  split <;> simp_all

theorem decodeFamilyF_eq_noOp {w : Word} : decodeFamilyF w = .noOp ↔
    fieldKK w ∉ [0x07#8, 0x0A, 0x15, 0x18, 0x1E, 0x29, 0x33, 0x55, 0x65] := by
  unfold decodeFamilyF
  split <;> simp_all

/-- Settles O4: the no-op comes from the second level of the decoder only, for the keys without a handler. -/
theorem unassignedWordsAreNoOps : Obligations.UnassignedWordsAreNoOps := by
  intro w
  rcases decodeWord_cases w with ⟨hF, hd⟩ | ⟨hF, hd⟩ | ⟨hF, hd⟩ | ⟨hF, hd⟩ | ⟨hF, hne, -⟩
  · simp [hF, hd, decodeFamily0_eq_noOp]
  · simp [hF, hd, decodeFamily8_eq_noOp]
  · simp [hF, hd, decodeFamilyE_eq_noOp]
  · simp [hF, hd, decodeFamilyF_eq_noOp]
  · simp_all

/-! ### Words written out -/

/-- Settles O1, by evaluating the decoder on each of the seventeen words. -/
theorem specWordsDecode : Obligations.SpecWordsDecode := by
  unfold Obligations.SpecWordsDecode
  decide

end Sys2Proof
end

section
/-! PROOFS. The tick (40_tick_cycle): the frame of every instruction (R94), the timer countdown (R95), the no-op (R96),
the halted core (R98), and where the random byte reaches (R99). -/

namespace Sys2Proof.Machine

/-! ### Frames: one rule per state operation, for every write set that allows the write -/

section Frame

variable {w : Writes} {s t u : State}

theorem Untouched.refl (w : Writes) (s : State) : Untouched w s s where
  reg _ _ := rfl
  mem _ _ _ := rfl
  slot _ _ := rfl
  pixel _ _ _ := rfl
  index _ := rfl
  pc _ := rfl
  sp _ := rfl
  dt _ := rfl
  st _ := rfl
  fault _ := rfl
  draws _ := rfl
  keys := rfl
  ir := rfl
  cfg := rfl
  rnd := rfl

theorem Untouched.trans (h : Untouched w s t) (h' : Untouched w t u) : Untouched w s u where
  reg r hr := (h'.reg r hr).trans (h.reg r hr)
  mem a ha hm := (h'.mem a ha hm).trans (h.mem a ha hm)
  slot k hk := (h'.slot k hk).trans (h.slot k hk)
  pixel px py hp := (h'.pixel px py hp).trans (h.pixel px py hp)
  index hi := (h'.index hi).trans (h.index hi)
  pc hp := (h'.pc hp).trans (h.pc hp)
  sp hs := (h'.sp hs).trans (h.sp hs)
  dt hd := (h'.dt hd).trans (h.dt hd)
  st hs := (h'.st hs).trans (h.st hs)
  fault hf := (h'.fault hf).trans (h.fault hf)
  draws hd := (h'.draws hd).trans (h.draws hd)
  keys := h'.keys.trans h.keys
  ir := h'.ir.trans h.ir
  cfg := h'.cfg.trans h.cfg
  rnd := h'.rnd.trans h.rnd

/-- A loop stays within a write set when each of its rounds does. -/
theorem Untouched.foldl {α : Type} {f : State → α → State} {l : List α}
    (h : ∀ a ∈ l, ∀ t, Untouched w t (f t a)) (s : State) : Untouched w s (l.foldl f s) := by
  induction l generalizing s with
  | nil => exact .refl w s
  | cons a l ih =>
    have hhead : Untouched w s (f s a) := h a List.mem_cons_self s
    exact hhead.trans (ih (fun b hb => h b (List.mem_cons_of_mem a hb)) (f s a))

theorem untouched_setReg {r : Nib} (s : State) (v : Byte) (h : w.reg r) : Untouched w s (s.setReg r v) :=
  { Untouched.refl w s with
    reg := fun q hq => by rw [reg_setReg, if_neg]; rintro rfl; exact hq h }

theorem untouched_writeMem {a : Nat} (s : State) (v : Byte) (h : w.mem (a % 4096)) :
    Untouched w s (s.writeMem a v) :=
  { Untouched.refl w s with
    mem := fun c hc hw => by
      rw [readMem_writeMem, if_neg]
      intro heq
      rw [Nat.mod_eq_of_lt hc] at heq
      exact hw (heq ▸ h) }

/-- A store at an effective address, which is already reduced modulo 4096 (R146). -/
theorem untouched_writeMem_effAddr {k : Nat} (t : State) (v : Byte) (h : w.mem (s.effAddr k)) :
    Untouched w t (t.writeMem (s.effAddr k) v) :=
  untouched_writeMem t v ((Nat.mod_eq_of_lt (effAddr_lt s k)).symm ▸ h)

theorem untouched_setSlot {k : Fin 16} (s : State) (v : Word) (h : w.slot k) : Untouched w s (s.setSlot k v) :=
  { Untouched.refl w s with
    slot := fun j hj => by rw [slot_setSlot, if_neg]; rintro rfl; exact hj h }

theorem untouched_setPixel {px : Fin 64} {py : Fin 32} (s : State) (v : Bool) (h : w.pixel px py) :
    Untouched w s (s.setPixel px py v) :=
  { Untouched.refl w s with
    pixel := fun qx qy hq => by rw [pixel_setPixel, if_neg]; rintro ⟨rfl, rfl⟩; exact hq h }

theorem untouched_clearVideo (s : State) (h : ∀ px py, w.pixel px py) : Untouched w s s.clearVideo :=
  { Untouched.refl w s with pixel := fun px py hp => absurd (h px py) hp }

theorem untouched_setIndex (s : State) (v : Word) (h : w.index) : Untouched w s (s.setIndex v) :=
  { Untouched.refl w s with index := fun hi => absurd h hi }

theorem untouched_setPc (s : State) (v : Word) (h : w.pc) : Untouched w s (s.setPc v) :=
  { Untouched.refl w s with pc := fun hp => absurd h hp }

theorem untouched_setSp (s : State) (v : Byte) (h : w.sp) : Untouched w s (s.setSp v) :=
  { Untouched.refl w s with sp := fun hs => absurd h hs }

theorem untouched_setDelay (s : State) (v : Byte) (h : w.dt) : Untouched w s (s.setDelay v) :=
  { Untouched.refl w s with dt := fun hd => absurd h hd }

theorem untouched_setSound (s : State) (v : Byte) (h : w.st) : Untouched w s (s.setSound v) :=
  { Untouched.refl w s with st := fun hs => absurd h hs }

theorem untouched_countDraw (s : State) (h : w.draws) : Untouched w s s.countDraw :=
  { Untouched.refl w s with draws := fun hd => absurd h hd }

theorem untouched_raise (s : State) (f : FaultLatch) (h : w.fault) : Untouched w s (s.raise f) :=
  { Untouched.refl w s with fault := fun hf => absurd h hf }

/-- A skip that is not taken writes nothing (R107). -/
theorem untouched_skipIf {c : Bool} (s : State) (h : c = true → w.pc) : Untouched w s (s.skipIf c) := by
  cases c with
  | false => exact .refl w s
  | true => exact untouched_setPc s _ (h rfl)

theorem untouched_writeFlagResult {x : Nib} (s : State) (f r : Byte) (h15 : w.reg 15) (hx : w.reg x) :
    Untouched w s (s.writeFlagResult x f r) :=
  (untouched_setReg s f h15).trans (untouched_setReg _ r hx)

/-- Flipping a cell writes its pixel, and the flag register where the pixel was on (R162). -/
theorem untouched_flipCell {p : Fin 64 × Fin 32} (s : State) (h15 : w.reg 15) (hp : w.pixel p.1 p.2) :
    Untouched w s (flipCell s p) := by
  unfold flipCell flipPixel
  split
  · exact (untouched_setReg s _ h15).trans (untouched_setPixel _ _ hp)
  · exact untouched_setPixel s _ hp

end Frame

/-! ### The frame of every instruction -/

theorem key_of_lowestKey_eq_some {s : State} {k : Nat} (h : s.lowestKey = some k) :
    s.key (BitVec.ofNat 4 k) = true :=
  List.find?_some (p := fun k => s.key (BitVec.ofNat 4 k)) h

theorem key_of_lowestKey_eq_none {s : State} (h : s.lowestKey = none) (k : Nib) : s.key k = false := by
  have hscan := List.find?_eq_none.1 h k.toNat (List.mem_range.2 k.isLt)
  simpa using hscan

/-- A call writes the pushed slot, `sp` and `pc`, or the latch (R102, R191). -/
theorem exec_call_untouched {s t : State} {nnn : Addr} (h : exec (.call nnn) s = .next t) :
    Untouched (writesOf (.call nnn) s) s t := by
  rcases exec_call_cases h with ⟨h16, rfl⟩ | ⟨k, hk, rfl⟩
  · exact untouched_raise s _ h16
  · have hfree : s.sp ≠ 16 := by have := k.isLt; bv_omega
    exact ((untouched_setSlot s _ hk.symm).trans (untouched_setSp _ _ hfree)).trans (untouched_setPc _ _ hfree)

/-- A return writes `sp` and `pc`, or the latch (R100, R192). -/
theorem exec_ret_untouched {s t : State} (h : exec .ret s = .next t) : Untouched (writesOf .ret s) s t := by
  rcases exec_ret_cases h with ⟨h0, rfl⟩ | ⟨k, hk, rfl⟩
  · exact untouched_raise s _ h0
  · have hactive : s.sp ≠ 0 := by bv_omega
    exact (untouched_setSp s _ hactive).trans (untouched_setPc _ _ hactive)

/-- wait-key writes its register where a key is pressed, and `pc` where none is (R173). -/
theorem exec_waitKey_untouched {s t : State} {x : Nib} (h : exec (.waitKey x) s = .next t) :
    Untouched (writesOf (.waitKey x) s) s t := by
  simp only [exec, execWaitKey] at h
  split at h
  · next k hk =>
    obtain rfl := Host.Outcome.next.inj h
    exact untouched_setReg s _ ⟨rfl, _, key_of_lowestKey_eq_some hk⟩
  · next hnone =>
    obtain rfl := Host.Outcome.next.inj h
    exact untouched_setPc s _ (key_of_lowestKey_eq_none hnone)

/-- A draw writes the flag register and the pixels under a 1 bit of the sprite (R162, R163). -/
theorem exec_draw_untouched {s t : State} {x y n : Nib} (h : exec (.draw x y n) s = .next t) :
    Untouched (writesOf (.draw x y n) s) s t := by
  obtain rfl := Host.Outcome.next.inj h
  rw [foldl_drawRow_eq]
  refine (untouched_setReg s (flagByte false) rfl).trans (Untouched.foldl (fun p hp u => untouched_flipCell u rfl ?_) _)
  exact (mem_drawCells (by have := n.isLt; omega)).1 hp

/-- Settles O16: each instruction is made of state operations, and each of these writes within the instruction's
list. -/
theorem instructionsWriteOnlyWhatTheyList : Obligations.InstructionsWriteOnlyWhatTheyList := by
  intro i s t h
  cases i with
  | call nnn => exact exec_call_untouched h
  | ret => exact exec_ret_untouched h
  | waitKey x => exact exec_waitKey_untouched h
  | draw x y n => exact exec_draw_untouched h
  | clearScreen =>
    obtain rfl := Host.Outcome.next.inj h
    exact untouched_clearVideo s fun _ _ => trivial
  | jump nnn | jumpOffset nnn =>
    obtain rfl := Host.Outcome.next.inj h
    exact untouched_setPc s _ trivial
  | skipEqImm x kk | skipNeqImm x kk | skipEqReg x y | skipNeqReg x y | skipKeyPressed x | skipKeyNotPressed x =>
    obtain rfl := Host.Outcome.next.inj h
    exact untouched_skipIf s (by simp [writesOf])
  | loadImm x kk | addImm x kk | move x y | orReg x y | andReg x y | xorReg x y | loadDelay x =>
    obtain rfl := Host.Outcome.next.inj h
    exact untouched_setReg s _ rfl
  | addReg x y | subReg x y | shiftRight x | subnReg x y | shiftLeft x =>
    obtain rfl := Host.Outcome.next.inj h
    exact untouched_writeFlagResult s _ _ (.inr rfl) (.inl rfl)
  | randomAnd x kk =>
    obtain rfl := Host.Outcome.next.inj h
    exact (untouched_setReg s _ rfl).trans (untouched_countDraw _ trivial)
  | setIndex nnn | addIndex x | loadGlyphAddr x =>
    obtain rfl := Host.Outcome.next.inj h
    exact untouched_setIndex s _ trivial
  | setDelay x =>
    obtain rfl := Host.Outcome.next.inj h
    exact untouched_setDelay s _ trivial
  | setSound x =>
    obtain rfl := Host.Outcome.next.inj h
    exact untouched_setSound s _ trivial
  | storeBcd x =>
    obtain rfl := Host.Outcome.next.inj h
    exact ((untouched_writeMem_effAddr s _ (Or.inl rfl)).trans
      (untouched_writeMem_effAddr _ _ (Or.inr (Or.inl rfl)))).trans
      (untouched_writeMem_effAddr _ _ (Or.inr (Or.inr rfl)))
  | storeRegs x =>
    obtain rfl := Host.Outcome.next.inj h
    refine Untouched.foldl (fun k hk u => untouched_writeMem_effAddr u _ ?_) s
    exact ⟨k, Nat.le_of_lt_succ (List.mem_range.1 hk), rfl⟩
  | loadRegs x =>
    obtain rfl := Host.Outcome.next.inj h
    refine Untouched.foldl (fun k hk u => untouched_setReg u _ ?_) s
    exact (Nat.mod_le k 16).trans (Nat.le_of_lt_succ (List.mem_range.1 hk))
  | noOp =>
    obtain rfl := Host.Outcome.next.inj h
    exact .refl _ s

/-! ### The step of a running core and of a halted one -/

/-- Settles O8: the tick of a halted core is the state itself, and a step is a tick. -/
theorem haltedTickChangesNothing : Obligations.HaltedTickChangesNothing :=
  fun _ rnd h => ⟨tick_of_halted h rnd, tick_of_halted h _⟩

/-- Every instruction has a meaning (R79). -/
theorem exec_ne_refused (i : Instr) (s : State) (r : Refusal) : exec i s ≠ .refused r := by
  cases i with
  | ret =>
    simp only [exec, execRet]
    split
    · nofun
    · split <;> nofun
  | call nnn =>
    simp only [exec, execCall]
    split
    · nofun
    · split <;> nofun
  | waitKey x =>
    simp only [exec, execWaitKey]
    split <;> nofun
  | _ => nofun

/-- Two bytes decode to the instruction of their word and leave nothing over (R54, R70). -/
theorem decode_pair_eq_ok {hi lo : Byte} {i : Instr} {rest : List Byte} (h : decode [hi, lo] = .ok (i, rest)) :
    decodeWord (Word.ofBytes hi lo) = i :=
  congrArg Prod.fst (Except.ok.inj h)

/-- A running core's step is the run of the fetched word. -/
theorem step_of_running {s : State} (h : s.fault = .none) :
    step s = s.runWord s.fetchWord (Config.randomByte s.draws) := tick_of_running h _

/-- Settles O6: the state the instruction executes in is the tick's beginning, and the tick ends by its outcome. -/
theorem stepRunsDecodedInstruction : Obligations.StepRunsDecodedInstruction := by
  intro s i rest hrun hdecode s₁
  obtain rfl : decodeWord s.fetchWord = i := decode_pair_eq_ok hdecode
  rw [step_of_running hrun]
  refine ⟨fun t ht hok => ?_, fun t ht hfault => ?_, fun f hf => ?_, exec_ne_refused _ s₁⟩
  · rw [runWord_of_exec ht, finishTick_of_ok s hok]
    rfl
  · rw [runWord_of_exec ht, finishTick_of_fault s hfault]
  · have hbegin : exec (decodeWord s.fetchWord) (s.beginTick (Config.randomByte s.draws)) = .fault f := hf
    simp only [State.runWord, hbegin]

/-! ### The no-op -/

/-- Settles O33: the no-op's next state is the tick's beginning, which the end of the tick counts down. -/
theorem noOpOnlyAdvances : Obligations.NoOpOnlyAdvances := by
  refine ⟨fun s => ⟨s, rfl, .refl _ s⟩, fun s rnd hrun hdecode => ?_⟩
  have hexec : exec (decodeWord s.fetchWord) (s.beginTick rnd) = .next (s.beginTick rnd) := by rw [hdecode]; rfl
  have hok : (s.beginTick rnd).fault = .none := hrun
  rw [tick_of_running hrun, runWord_of_exec hexec, finishTick_of_ok s hok]
  exact ⟨_, rfl, rfl, BitVec.toNat_add _ _, countDown_toNat s.dt, countDown_toNat s.st, rfl, rfl, rfl, rfl, rfl, rfl,
    rfl, hrun, rfl, rfl⟩

/-! ### The timers -/

/-- A tick of a running core that latches no fault is the fetched instruction's next state, counted down (R95). -/
theorem tick_completed {s u : State} {rnd : Byte} (hrun : s.fault = .none) (h : tick rnd s = .next u)
    (hok : u.fault = .none) :
    ∃ t, exec (decodeWord s.fetchWord) (s.beginTick rnd) = .next t ∧ u = { t.timerTick with rnd := s.rnd } := by
  rcases tick_cases h with ⟨hhalted, -⟩ | ⟨-, t, ht, rfl⟩
  · exact absurd hrun hhalted
  · refine ⟨t, ht, finishTick_of_ok s ?_⟩
    by_contra hfault
    rw [finishTick_of_fault s hfault] at hok
    exact hfault hok

/-- Only set-delay writes the delay timer (R174). -/
theorem writesOf_dt {i : Instr} (s : State) (h : ∀ x, i ≠ .setDelay x) : ¬ (writesOf i s).dt := by
  cases i with
  | setDelay x => exact absurd rfl (h x)
  | _ => exact id

/-- Only set-sound writes the sound timer (R175). -/
theorem writesOf_st {i : Instr} (s : State) (h : ∀ x, i ≠ .setSound x) : ¬ (writesOf i s).st := by
  cases i with
  | setSound x => exact absurd rfl (h x)
  | _ => exact id

section Completed

variable {s u : State} {rnd : Byte} (hrun : s.fault = .none) (h : tick rnd s = .next u) (hok : u.fault = .none)
include hrun h hok

theorem tick_dt_of_not_setDelay (hi : ∀ x, decodeWord s.fetchWord ≠ .setDelay x) : u.dt.toNat = s.dt.toNat - 1 := by
  obtain ⟨t, ht, rfl⟩ := tick_completed hrun h hok
  have hframe : t.dt = s.dt := (instructionsWriteOnlyWhatTheyList _ _ _ ht).dt (writesOf_dt _ hi)
  exact hframe ▸ countDown_toNat t.dt

theorem tick_st_of_not_setSound (hi : ∀ x, decodeWord s.fetchWord ≠ .setSound x) : u.st.toNat = s.st.toNat - 1 := by
  obtain ⟨t, ht, rfl⟩ := tick_completed hrun h hok
  have hframe : t.st = s.st := (instructionsWriteOnlyWhatTheyList _ _ _ ht).st (writesOf_st _ hi)
  exact hframe ▸ countDown_toNat t.st

theorem tick_dt_of_setDelay {x : Nib} (hi : decodeWord s.fetchWord = .setDelay x) :
    u.dt.toNat = (s.reg x).toNat - 1 := by
  obtain ⟨t, ht, rfl⟩ := tick_completed hrun h hok
  rw [hi] at ht
  obtain rfl := Host.Outcome.next.inj ht
  exact countDown_toNat (s.reg x)

theorem tick_st_of_setSound {x : Nib} (hi : decodeWord s.fetchWord = .setSound x) :
    u.st.toNat = (s.reg x).toNat - 1 := by
  obtain ⟨t, ht, rfl⟩ := tick_completed hrun h hok
  rw [hi] at ht
  obtain rfl := Host.Outcome.next.inj ht
  exact countDown_toNat (s.reg x)

theorem tick_reg_of_loadDelay {x : Nib} (hi : decodeWord s.fetchWord = .loadDelay x) : u.reg x = s.dt := by
  obtain ⟨t, ht, rfl⟩ := tick_completed hrun h hok
  rw [hi] at ht
  obtain rfl := Host.Outcome.next.inj ht
  exact (reg_setReg (s.beginTick rnd) x s.dt x).trans (if_pos rfl)

end Completed

/-- A count that every one of `n` steps lowers by one, or leaves at zero, is `n` lower after them, or zero. -/
theorem eq_sub_of_steps {n : Nat} {a : Nat → Nat} (h : ∀ k < n, a (k + 1) = a k - 1) : a n = a 0 - n := by
  induction n with
  | zero => rfl
  | succ n ih => rw [h n n.lt_succ_self, ih fun k hk => h k (Nat.lt_succ_of_lt hk), Nat.sub_sub]

/-- Settles O12: a tick counts down what the instruction left in the timers, and a run adds up its ticks. -/
theorem timersCountDownEveryTick : Obligations.TimersCountDownEveryTick := by
  refine ⟨fun s u rnd hrun h hok => ?_, fun n run hticks => ?_⟩
  · exact ⟨tick_dt_of_not_setDelay hrun h hok, tick_st_of_not_setSound hrun h hok,
      fun _ => tick_dt_of_setDelay hrun h hok, fun _ => tick_st_of_setSound hrun h hok,
      fun _ => tick_reg_of_loadDelay hrun h hok⟩
  · refine ⟨fun hset => eq_sub_of_steps (a := fun k => (run k).dt.toNat) fun k hk => ?_,
      fun hset => eq_sub_of_steps (a := fun k => (run k).st.toNat) fun k hk => ?_⟩ <;>
      obtain ⟨hrun, ⟨rnd, h⟩, hok⟩ := hticks k hk
    · exact tick_dt_of_not_setDelay hrun h hok (hset k hk)
    · exact tick_st_of_not_setSound hrun h hok (hset k hk)

/-! ### The random byte -/

/-- The state with another byte on the random port (R9). -/
def State.withRnd (r : Byte) (s : State) : State := { s with rnd := r }

/-- The outcome with another byte on the random port of its next state. -/
def outcomeWithRnd (r : Byte) : Host.Outcome State Fault Refusal → Host.Outcome State Fault Refusal
  | .next t => .next (t.withRnd r)
  | .fault f => .fault f
  | .refused f => .refused f

theorem skipIf_withRnd (s : State) (r : Byte) (c : Bool) : (s.withRnd r).skipIf c = (s.skipIf c).withRnd r := by
  cases c <;> rfl

theorem flipCell_withRnd (s : State) (r : Byte) (p : Fin 64 × Fin 32) :
    flipCell (s.withRnd r) p = (flipCell s p).withRnd r := by
  have hpixel : (s.withRnd r).pixel p.1 p.2 = s.pixel p.1 p.2 := rfl
  simp only [flipCell, flipPixel, hpixel]
  split <;> rfl

/-- The rows of a draw read memory, `I` and pixels only. -/
theorem foldl_drawRow_withRnd (vx vy : Byte) (n : Nat) (s : State) (r : Byte) :
    (List.range n).foldl (drawRow vx vy) (s.withRnd r) = ((List.range n).foldl (drawRow vx vy) s).withRnd r := by
  have hcells : drawCells (s.withRnd r) vx vy n = drawCells s vx vy n := rfl
  rw [foldl_drawRow_eq, foldl_drawRow_eq, hcells]
  exact List.foldl_hom (State.withRnd r) fun t p => flipCell_withRnd t r p

/-- An instruction other than random-and does not read the random port, and carries the byte along (R99). -/
theorem exec_withRnd {i : Instr} (hi : ∀ x kk, i ≠ .randomAnd x kk) (s : State) (r : Byte) :
    exec i (s.withRnd r) = outcomeWithRnd r (exec i s) := by
  cases i with
  | randomAnd x kk => exact absurd rfl (hi x kk)
  | ret =>
    simp only [exec, execRet, show (s.withRnd r).sp = s.sp from rfl]
    split
    · rfl
    · split <;> rfl
  | call nnn =>
    simp only [exec, execCall, show (s.withRnd r).sp = s.sp from rfl]
    split
    · rfl
    · split <;> rfl
  | waitKey x =>
    simp only [exec, execWaitKey, show (s.withRnd r).lowestKey = s.lowestKey from rfl]
    split <;> rfl
  | skipEqImm x kk | skipNeqImm x kk | skipEqReg x y | skipNeqReg x y | skipKeyPressed x | skipKeyNotPressed x =>
    exact congrArg Host.Outcome.next (skipIf_withRnd s r _)
  | draw x y n => exact congrArg Host.Outcome.next (foldl_drawRow_withRnd _ _ _ (s.setReg 15 _) r)
  | storeRegs x =>
    exact congrArg Host.Outcome.next
      (List.foldl_hom (g₁ := storeOne s) (g₂ := storeOne (s.withRnd r)) (State.withRnd r) fun _ _ => rfl)
  | loadRegs x =>
    exact congrArg Host.Outcome.next
      (List.foldl_hom (g₁ := loadOne s) (g₂ := loadOne (s.withRnd r)) (State.withRnd r) fun _ _ => rfl)
  | _ => rfl

/-- The end of a tick puts the old byte back on the random port (R9). -/
theorem finishTick_withRnd (s t : State) (r : Byte) : s.finishTick (t.withRnd r) = s.finishTick t := rfl

/-- The run of a word other than random-and does not depend on the byte delivered. -/
theorem runWord_eq_of_not_randomAnd {w : Word} (hw : ∀ x kk, decodeWord w ≠ .randomAnd x kk) (s : State) (r : Byte) :
    s.runWord w r = s.runWord w 0 := by
  have hexec : exec (decodeWord w) (s.beginTick r) = outcomeWithRnd r (exec (decodeWord w) (s.beginTick 0)) :=
    exec_withRnd hw (s.beginTick 0) r
  simp only [State.runWord, hexec]
  cases exec (decodeWord w) (s.beginTick 0) with
  | next t => exact congrArg Host.Outcome.next (finishTick_withRnd s t r)
  | fault f => rfl
  | refused f => rfl

/-- Settles O13: a halted core does nothing, and a running one's tick does not depend on the byte. -/
theorem randomByteReachesOnlyRandomAnd : Obligations.RandomByteReachesOnlyRandomAnd := by
  intro s r₁ r₂ hw
  by_cases hrun : s.fault = .none
  · rw [tick_of_running hrun, tick_of_running hrun, runWord_eq_of_not_randomAnd hw s r₁,
      runWord_eq_of_not_randomAnd hw s r₂]
  · rw [tick_of_halted hrun, tick_of_halted hrun]

end Sys2Proof.Machine
end

section
/-! PROOFS. Control transfer (41_flow_control): return and call with their faults (R100, R102), the jumps (R101, R108)
and the skips (R103 to R107). -/

namespace Sys2Proof.Machine

/-- The row of an instruction selects words of its mnemonic, with the operands of the word (R74, R75). -/
theorem selects_row (i : Instr) : Selects (maskOf i) (matchOf i) fun w => i.withOperandsOf w :=
  fun _ h => decodeWord_of_match h

/-! ### Return and call -/

/-- A return on an empty stack raises the underflow (R192). -/
theorem exec_ret_of_empty {s : State} (h : s.sp = 0) : exec .ret s = .next (s.raise .stackUnderflow) := by
  simp only [exec, execRet, if_pos h]

/-- A call with all 16 slots in use raises the overflow (R191). -/
theorem exec_call_of_full {s : State} (nnn : Addr) (h : s.sp = 16) :
    exec (.call nnn) s = .next (s.raise .stackOverflow) := by
  simp only [exec, execCall, if_pos h]

/-- Settles O26: with an active call the pop writes `sp` and `pc` only, and on an empty stack only the latch is
raised. -/
theorem returnPopsIntoPc : Obligations.ReturnPopsIntoPc := by
  refine ⟨selects_row .ret, fun s k hsp => ⟨_, exec_ret_of_active hsp, rfl, ?_, ?_⟩,
    fun s hsp => ⟨_, exec_ret_of_empty hsp, rfl, untouched_raise s _ trivial⟩⟩
  · rw [setPc_sp, setSp_sp]
    bv_omega
  · exact (untouched_setSp s _ trivial).trans (untouched_setPc _ _ trivial)

/-- Settles O28: with a free slot the push writes that slot, `sp` and `pc` only, and with none only the latch is
raised. -/
theorem callPushesAdvancedPc : Obligations.CallPushesAdvancedPc := by
  refine ⟨selects_row (.call 0), fun s nnn k hsp => ⟨_, exec_call_of_free nnn hsp, ?_, ?_, ?_, ?_⟩,
    fun s nnn hsp => ⟨_, exec_call_of_full nnn hsp, rfl, untouched_raise s _ trivial⟩⟩
  · rw [setPc_slot, setSp_slot, slot_setSlot, if_pos rfl]
  · have hk := k.isLt
    rw [setPc_sp, setSp_sp]
    bv_omega
  · exact BitVec.toNat_setWidth_of_le (by decide)
  · exact ((untouched_setSlot s _ rfl).trans (untouched_setSp _ _ trivial)).trans (untouched_setPc _ _ trivial)

/-! ### Jumps -/

/-- Settles O27: a 12-bit address keeps its value in 16 bits. -/
theorem jumpGoesToAddress : Obligations.JumpGoesToAddress :=
  ⟨selects_row (.jump 0), fun s nnn =>
    ⟨s.setPc (nnn.setWidth 16), rfl, BitVec.toNat_setWidth_of_le (by decide), untouched_setPc s _ trivial⟩⟩

/-- The sum of an address and a register fits 16 bits, so storing it loses nothing (R108). -/
theorem toNat_ofNat_address_add_byte (nnn : Addr) (v : Byte) :
    (BitVec.ofNat 16 (nnn.toNat + v.toNat)).toNat = nnn.toNat + v.toNat := by
  have ha := nnn.isLt
  have hv := v.isLt
  exact Nat.mod_eq_of_lt (by omega)

/-- Settles O32: the sum of the address and register 0 fits `pc`. -/
theorem jumpOffsetAddsRegisterZero : Obligations.JumpOffsetAddsRegisterZero :=
  ⟨selects_row (.jumpOffset 0), fun s nnn =>
    ⟨s.setPc (BitVec.ofNat 16 (nnn.toNat + (s.reg 0).toNat)), rfl, toNat_ofNat_address_add_byte nnn (s.reg 0),
      untouched_setPc s _ trivial⟩⟩

/-! ### Skips -/

/-- An instruction that skips on a Boolean test of `P` moves `pc` by 2 modulo 65536 where `P` holds, and changes nothing
else (R107). -/
theorem exec_skip_spec {i : Instr} {s : State} {c : Bool} {P : Prop} [Decidable P]
    (hexec : exec i s = .next (s.skipIf c)) (hc : c = true ↔ P) :
    ∃ t, exec i s = .next t ∧ t.pc.toNat = (if P then (s.pc.toNat + 2) % 65536 else s.pc.toNat) ∧
      Untouched { pc := P } s t := by
  refine ⟨_, hexec, ?_, untouched_skipIf s hc.1⟩
  rw [skipIf_eq, setPc_pc]
  by_cases hP : P
  · rw [if_pos (hc.2 hP), if_pos hP]
    exact BitVec.toNat_add _ _
  · rw [if_neg (mt hc.1 hP), if_neg hP]

/-- Settles O30: both are skips, on the equality test of the register with the immediate and on its negation. -/
theorem skipImmediateComparesRegister : Obligations.SkipImmediateComparesRegister :=
  ⟨selects_row (.skipEqImm 0 0), selects_row (.skipNeqImm 0 0),
    fun _ _ _ => ⟨exec_skip_spec rfl beq_iff_eq, exec_skip_spec rfl bne_iff_ne⟩⟩

/-- Settles O31: both are skips, on the equality test of the two registers and on its negation. -/
theorem skipRegisterComparesRegisters : Obligations.SkipRegisterComparesRegisters :=
  ⟨selects_row (.skipEqReg 0 0), selects_row (.skipNeqReg 0 0),
    fun _ _ _ => ⟨exec_skip_spec rfl beq_iff_eq, exec_skip_spec rfl bne_iff_ne⟩⟩

end Sys2Proof.Machine
end

section
/-! PROOFS. Register loads, arithmetic and random (42_load_and_alu): the destination register (R120 to R125), the
flag-writing instructions (R126 to R131) and random-and (R132). -/

namespace Sys2Proof.Machine

/-! ### One destination register -/

theorem reg_setReg_self (s : State) (r : Nib) (v : Byte) : (s.setReg r v).reg r = v := by
  rw [reg_setReg, if_pos rfl]

/-- Settles O34: the immediate is what the destination register then reads. -/
theorem loadImmWritesImmediate : Obligations.LoadImmWritesImmediate :=
  ⟨selects_row (.loadImm 0 0), fun s x kk => ⟨_, rfl, reg_setReg_self s x kk, untouched_setReg s kk rfl⟩⟩

/-- Settles O35: the sum of two bytes is taken modulo 256, and only the destination register is written. -/
theorem addImmWrapsWithoutFlag : Obligations.AddImmWrapsWithoutFlag := by
  refine ⟨selects_row (.addImm 0 0), fun s x kk => ⟨_, rfl, ?_, untouched_setReg s _ rfl⟩⟩
  rw [reg_setReg_self]
  exact BitVec.toNat_add _ _

/-- Settles O36: the source register's byte is what the destination register then reads. -/
theorem moveCopiesRegister : Obligations.MoveCopiesRegister :=
  ⟨selects_row (.move 0 0), fun s x _ => ⟨_, rfl, reg_setReg_self s x _, untouched_setReg s _ rfl⟩⟩

/-- Settles O37: each bit of the destination register is the operation on the two old bits, by the bit rule of the
operation, and only that register is written. -/
theorem bitwiseOperationsWriteNoFlag : Obligations.BitwiseOperationsWriteNoFlag := by
  refine ⟨selects_row (.orReg 0 0), selects_row (.andReg 0 0), selects_row (.xorReg 0 0), fun s x y =>
    ⟨⟨_, rfl, fun b => ?_, untouched_setReg s _ rfl⟩, ⟨_, rfl, fun b => ?_, untouched_setReg s _ rfl⟩,
      ⟨_, rfl, fun b => ?_, untouched_setReg s _ rfl⟩⟩⟩
  · rw [reg_setReg_self, BitVec.getLsbD_or]
  · rw [reg_setReg_self, BitVec.getLsbD_and]
  · rw [reg_setReg_self, BitVec.getLsbD_xor]

/-! ### The flags -/

theorem flagByte_decide (P : Prop) [Decidable P] : flagByte (decide P) = if P then 1 else 0 := by
  simp only [flagByte, decide_eq_true_eq]

/-- The carry flag is 1 where the sum exceeds 255 (R127). -/
theorem carryFlag_eq (a b : Byte) : carryFlag a b = if a.toNat + b.toNat > 255 then 1 else 0 := flagByte_decide _

/-- sub-reg's flag is 1 where the first operand is strictly greater (R128). -/
theorem greaterFlag_eq (a b : Byte) : greaterFlag a b = if a.toNat > b.toNat then 1 else 0 := flagByte_decide _

/-- subn-reg's flag is 1 where the reverse difference needs no borrow (R130). -/
theorem noBorrowFlag_eq (a b : Byte) : noBorrowFlag a b = if b.toNat ≥ a.toNat then 1 else 0 := flagByte_decide _

theorem flagByte_toNat (f : Bool) : (flagByte f).toNat = f.toNat := by
  cases f <;> rfl

/-- The bit shifted out to the right is the remainder of halving (R129). -/
theorem shiftedOutRight_toNat (a : Byte) : (shiftedOutRight a).toNat = a.toNat % 2 := by
  rw [shiftedOutRight, flagByte_toNat, BitVec.getLsbD, Nat.toNat_testBit, pow_zero, Nat.div_one]

/-- The bit shifted out to the left is set from 128 on (R131). -/
theorem shiftedOutLeft_toNat (a : Byte) : (shiftedOutLeft a).toNat = a.toNat / 128 := by
  have ha := a.isLt
  rw [shiftedOutLeft, flagByte_toNat, BitVec.getLsbD, Nat.toNat_testBit]
  omega

/-! ### Flag-writing instructions (R126) -/

/-- A flag-writing instruction leaves the result in `x[X]`, the flag in `x[15]` unless the result is there, and nothing
else changed (R126); `n` and `g` are the result's number and the flag as the instruction's rule gives them. -/
theorem exec_flag_spec {i : Instr} {s : State} {x : Nib} {f r g : Byte} {n : Nat}
    (hexec : exec i s = .next (s.writeFlagResult x f r)) (hr : r.toNat = n) (hf : f = g) :
    ∃ t, exec i s = .next t ∧ (t.reg x).toNat = n ∧ (x ≠ 15 → t.reg 15 = g) ∧
      Untouched { reg := fun q => q = x ∨ q = 15 } s t := by
  refine ⟨_, hexec, ?_, fun hx => ?_, untouched_writeFlagResult s f r (.inr rfl) (.inl rfl)⟩
  · rw [reg_writeFlagResult, if_pos rfl, hr]
  · rw [reg_writeFlagResult, if_neg hx.symm, if_pos rfl, hf]

/-- Settles O38: the result is the sum of two bytes, the flag its carry. -/
theorem addRegWritesCarry : Obligations.AddRegWritesCarry :=
  ⟨selects_row (.addReg 0 0), fun _ _ _ => exec_flag_spec rfl (BitVec.toNat_add _ _) (carryFlag_eq _ _)⟩

/-- The difference of two bytes modulo 256, without a negative intermediate. -/
theorem toNat_sub_byte (a b : Byte) : (a - b).toNat = (a.toNat + 256 - b.toNat) % 256 := by
  bv_omega

/-- Settles O39: the result is the difference, the flag the strict comparison. -/
theorem subRegFlagIsStrict : Obligations.SubRegFlagIsStrict :=
  ⟨selects_row (.subReg 0 0), fun _ _ _ => exec_flag_spec rfl (toNat_sub_byte _ _) (greaterFlag_eq _ _)⟩

/-- Settles O41: the result is the reverse difference, the flag the comparison that equal operands satisfy. -/
theorem subnRegFlagIsNoBorrow : Obligations.SubnRegFlagIsNoBorrow :=
  ⟨selects_row (.subnReg 0 0), fun _ _ _ => exec_flag_spec rfl (toNat_sub_byte _ _) (noBorrowFlag_eq _ _)⟩

/-- Settles O40: a right shift by one halves, and the flag is the remainder. -/
theorem shiftRightFlagsLowBit : Obligations.ShiftRightFlagsLowBit := by
  refine ⟨selects_row (.shiftRight 0), fun s x => ?_⟩
  have hhalf : (s.reg x >>> 1).toNat = (s.reg x).toNat / 2 := by
    rw [BitVec.toNat_ushiftRight, Nat.shiftRight_one]
  obtain ⟨t, ht, hresult, hflag, hframe⟩ := exec_flag_spec (i := .shiftRight x) rfl hhalf rfl
  exact ⟨t, ht, hresult, fun hx => by rw [hflag hx, shiftedOutRight_toNat], hframe⟩

/-- Settles O42: a left shift by one doubles modulo 256, and the flag is the carried quotient. -/
theorem shiftLeftFlagsHighBit : Obligations.ShiftLeftFlagsHighBit := by
  refine ⟨selects_row (.shiftLeft 0), fun s x => ?_⟩
  have hdouble : (s.reg x <<< 1).toNat = (s.reg x).toNat * 2 % 256 := by
    rw [BitVec.toNat_shiftLeft, Nat.shiftLeft_eq, pow_one]
  obtain ⟨t, ht, hresult, hflag, hframe⟩ := exec_flag_spec (i := .shiftLeft x) rfl hdouble rfl
  exact ⟨t, ht, hresult, fun hx => by rw [hflag hx, shiftedOutLeft_toNat], hframe⟩

/-! ### The random byte -/

/-- The tick of a fetched random-and masks the byte it is given (R9, R132). -/
theorem tick_randomAnd {s : State} {x : Nib} {kk : Byte} (rnd : Byte) (hrun : s.fault = .none)
    (hdecode : decodeWord s.fetchWord = .randomAnd x kk) : ∃ t, tick rnd s = .next t ∧ t.reg x = rnd &&& kk := by
  have hexec : exec (decodeWord s.fetchWord) (s.beginTick rnd) =
      .next ((s.beginTick rnd).setReg x (rnd &&& kk)).countDraw := by rw [hdecode]; rfl
  have hok : ((s.beginTick rnd).setReg x (rnd &&& kk)).countDraw.fault = .none := hrun
  rw [tick_of_running hrun, runWord_of_exec hexec, finishTick_of_ok s hok]
  exact ⟨_, rfl, reg_setReg_self (s.beginTick rnd) x (rnd &&& kk)⟩

/-- Settles O43: the instruction masks the byte on the random port, and a tick puts its own byte there. -/
theorem randomAndMasksTheByte : Obligations.RandomAndMasksTheByte :=
  ⟨selects_row (.randomAnd 0 0),
    fun s x kk => ⟨_, rfl, reg_setReg_self s x (s.rnd &&& kk), rfl,
      (untouched_setReg s _ rfl).trans (untouched_countDraw _ trivial)⟩,
    fun _ _ _ rnd hrun hdecode => tick_randomAnd rnd hrun hdecode⟩

end Sys2Proof.Machine
end

section
/-! PROOFS. The index register and memory transfers (43_index_and_memory): set-index and load-glyph-addr (R140, R142),
store-bcd (R143), store-regs and load-regs (R144, R145).  The frame of each is its entry in `writesOf` (R94). -/

namespace Sys2Proof.Machine

/-! ### The index register -/

/-- Settles O44: a 12-bit address keeps its value in 16 bits. -/
theorem setIndexLoadsAddress : Obligations.SetIndexLoadsAddress :=
  ⟨selects_row (.setIndex 0), fun s nnn =>
    ⟨_, rfl, BitVec.toNat_setWidth_of_le (by decide), instructionsWriteOnlyWhatTheyList (.setIndex nnn) s _ rfl⟩⟩

/-- An admissible glyph base lies so low that the address of any byte's glyph fits 16 bits (R8, R142). -/
theorem toNat_ofNat_glyphAddr {c : Config} (hc : c.wf) (v : Byte) :
    (BitVec.ofNat 16 (c.glyphBase.toNat + 5 * v.toNat)).toNat = c.glyphBase.toNat + 5 * v.toNat := by
  have hbase : c.glyphBase.toNat + 80 ≤ 0x200 := of_decide_eq_true hc
  have hv := v.isLt
  exact Nat.mod_eq_of_lt (by omega)

/-- Settles O46: the glyph address fits `I`, so storing it loses nothing. -/
theorem loadGlyphAddrIsExact : Obligations.LoadGlyphAddrIsExact :=
  ⟨selects_row (.loadGlyphAddr 0), fun s x hc =>
    ⟨_, rfl, toNat_ofNat_glyphAddr hc (s.reg x), instructionsWriteOnlyWhatTheyList (.loadGlyphAddr x) s _ rfl⟩⟩

/-! ### Decimal digits -/

theorem hundreds_toNat (v : Byte) : (hundreds v).toNat = v.toNat / 100 := by
  have hv := v.isLt
  exact Nat.mod_eq_of_lt (by omega)

theorem tens_toNat (v : Byte) : (tens v).toNat = v.toNat / 10 % 10 :=
  Nat.mod_eq_of_lt (by omega)

theorem ones_toNat (v : Byte) : (ones v).toNat = v.toNat % 10 :=
  Nat.mod_eq_of_lt (by omega)

/-- A read at an effective address sees a store at another one exactly when their offsets are equal: 16 consecutive
addresses stay different modulo 4096 (R146). -/
theorem readMem_writeMem_effAddr (s t : State) (v : Byte) {i j : Nat} (hi : i < 16) (hj : j < 16) :
    (t.writeMem (s.effAddr i) v).readMem (s.effAddr j) = if j = i then v else t.readMem (s.effAddr j) := by
  have hiff : s.effAddr j = s.effAddr i ↔ j = i := ⟨effAddr_inj hj hi, congrArg s.effAddr⟩
  rw [readMem_writeMem, Nat.mod_eq_of_lt (effAddr_lt s j), Nat.mod_eq_of_lt (effAddr_lt s i)]
  simp only [hiff]

/-- Settles O47: the three stores go to different addresses, so each digit is still there at the end. -/
theorem storeBcdWritesThreeDigits : Obligations.StoreBcdWritesThreeDigits := by
  refine ⟨selects_row (.storeBcd 0), fun s x =>
    ⟨_, rfl, ?_, ?_, ?_, instructionsWriteOnlyWhatTheyList (.storeBcd x) s _ rfl⟩⟩
  · simp [-readMem_writeMem, readMem_writeMem_effAddr, hundreds_toNat]
  · simp [-readMem_writeMem, readMem_writeMem_effAddr, tens_toNat]
  · simp [-readMem_writeMem, readMem_writeMem_effAddr, ones_toNat]

/-! ### Register ranges -/

/-- Settles O48: the stores leave register `r` at offset `r`, for every `r` up to `X`. -/
theorem storeRegsCopiesInclusiveRange : Obligations.StoreRegsCopiesInclusiveRange := by
  refine ⟨selects_row (.storeRegs 0), fun s x =>
    ⟨_, rfl, fun r hr => ?_, instructionsWriteOnlyWhatTheyList (.storeRegs x) s _ rfl⟩⟩
  rw [State.effAddr, readMem_mod, readMem_of_exec_storeRegs rfl hr, BitVec.ofNat_toNat, BitVec.setWidth_eq]

/-- Settles O49: the loads leave in register `r` the byte at offset `r`, for every `r` up to `X`. -/
theorem loadRegsCopiesInclusiveRange : Obligations.LoadRegsCopiesInclusiveRange := by
  refine ⟨selects_row (.loadRegs 0), fun s x =>
    ⟨_, rfl, fun r hr => ?_, instructionsWriteOnlyWhatTheyList (.loadRegs x) s _ rfl⟩⟩
  rw [reg_foldl_loadOne s (x.toNat + 1) x.isLt s r, if_pos (Nat.lt_succ_of_le hr)]

end Sys2Proof.Machine
end

section
/-! PROOFS. Video (44_video): clear-screen (R160), draw with its wraparound and its collision flag (R162, R163), and two
identical draws (R164 c). -/

namespace Sys2Proof.Machine

/-- Settles O51: clearing the video buffer turns every pixel off and writes pixels only. -/
theorem clearScreenTurnsPixelsOff : Obligations.ClearScreenTurnsPixelsOff :=
  ⟨selects_row .clearScreen, fun s =>
    ⟨s.clearVideo, rfl, pixel_clearVideo s, untouched_clearVideo s fun _ _ => trivial⟩⟩

/-! ### What a draw leaves -/

section Draw

variable {s t : State} {x y n : Nib}

/-- A draw flips exactly the pixels under a 1 bit of its sprite (R162). -/
theorem pixel_of_exec_draw (h : exec (.draw x y n) s = .next t) (px : Fin 64) (py : Fin 32) :
    t.pixel px py = (s.pixel px py ^^ s.spriteAt (s.reg x) (s.reg y) n.toNat px py) := by
  obtain rfl := Host.Outcome.next.inj h
  obtain ⟨-, hpixel, -⟩ := foldl_drawRow_spec (s.reg x) (s.reg y) n.toNat (by omega) (s.setReg 15 (flagByte false))
  exact hpixel px py

/-- A draw turns a pixel off exactly where the pixel was on and lies under a 1 bit of the sprite. -/
theorem turned_off_iff_of_exec_draw (h : exec (.draw x y n) s = .next t) (px : Fin 64) (py : Fin 32) :
    s.pixel px py = true ∧ t.pixel px py = false ↔
      s.spriteAt (s.reg x) (s.reg y) n.toNat px py = true ∧ s.pixel px py = true := by
  rw [pixel_of_exec_draw h, and_comm]
  refine and_congr_left fun hon => ?_
  rw [hon, Bool.true_xor, Bool.not_eq_false']

/-- The flag register after a draw says whether some pixel was turned off (R162, R163). -/
theorem flag_of_exec_draw (h : exec (.draw x y n) s = .next t) :
    t.reg 15 = if ∃ px py, s.pixel px py = true ∧ t.pixel px py = false then 1 else 0 := by
  simp only [turned_off_iff_of_exec_draw h]
  obtain rfl := Host.Outcome.next.inj h
  obtain ⟨-, -, hreg⟩ := foldl_drawRow_spec (s.reg x) (s.reg y) n.toNat (by omega) (s.setReg 15 (flagByte false))
  rw [hreg 15, reg_setReg_self]
  exact if_congr (and_iff_right rfl) rfl rfl

/-- A draw leaves its own sprite as it was: it writes neither memory nor `I` (R163). -/
theorem spriteAt_of_exec_draw (h : exec (.draw x y n) s = .next t) (vx vy : Byte) (k : Nat) (px : Fin 64)
    (py : Fin 32) : t.spriteAt vx vy k px py = s.spriteAt vx vy k px py := by
  have hframe := exec_draw_untouched h
  have haddr (r : Nat) : t.effAddr r = s.effAddr r := by rw [State.effAddr, hframe.index id, State.effAddr]
  have hbyte (r : Nat) : t.readMem (s.effAddr r) = s.readMem (s.effAddr r) := hframe.mem _ (effAddr_lt s r) id
  simp only [State.spriteAt, haddr, hbyte]

end Draw

/-- Settles O52: the pixels, the flag and the frame are the three lemmas about a draw. -/
theorem drawXorsSpriteAndFlagsCollision : Obligations.DrawXorsSpriteAndFlagsCollision := by
  refine ⟨selects_row (.draw 0 0 0), fun s x y n =>
    ⟨_, rfl, pixel_of_exec_draw rfl, fun hoff => ?_, fun hnone => ?_, exec_draw_untouched rfl⟩⟩
  · exact (flag_of_exec_draw rfl).trans (if_pos hoff)
  · exact (flag_of_exec_draw rfl).trans (if_neg hnone)

/-! ### Two identical draws -/

/-- Settles O53: the second draw flips the same pixels back, so it turns off what the first turned on. -/
theorem drawingTwiceRestoresVideo : Obligations.DrawingTwiceRestoresVideo := by
  intro s t x y n ht hx hy
  obtain ⟨u, hu⟩ : ∃ u, exec (.draw x y n) t = .next u := ⟨_, rfl⟩
  have hrestored (px : Fin 64) (py : Fin 32) : u.pixel px py = s.pixel px py := by
    rw [pixel_of_exec_draw hu, spriteAt_of_exec_draw ht, hx, hy, pixel_of_exec_draw ht, Bool.xor_assoc,
      Bool.xor_self, Bool.xor_false]
  refine ⟨u, hu, hrestored, ?_⟩
  have hone : u.reg 15 = 1 ↔ ∃ px py, t.pixel px py = true ∧ u.pixel px py = false := by
    rw [flag_of_exec_draw hu]
    exact Ne.ite_eq_left_iff (by decide)
  simp only [hone, hrestored, and_comm]

end Sys2Proof.Machine
end

section
/-! PROOFS. Keypad and timers (45_keypad_and_timers): load-delay (R172), wait-key (R173), set-delay and set-sound (R174,
R175). -/

namespace Sys2Proof.Machine

/-! ### The timers -/

/-- Settles O55: the delay timer is what the destination register then reads. -/
theorem loadDelayReadsTimer : Obligations.LoadDelayReadsTimer :=
  ⟨selects_row (.loadDelay 0), fun s x => ⟨_, rfl, reg_setReg_self s x s.dt, untouched_setReg s s.dt rfl⟩⟩

/-- Settles O57: each instruction writes the register to its own timer, and that timer only. -/
theorem setTimersCopyRegister : Obligations.SetTimersCopyRegister :=
  ⟨selects_row (.setDelay 0), selects_row (.setSound 0), fun s x =>
    ⟨⟨_, rfl, rfl, untouched_setDelay s (s.reg x) trivial⟩, ⟨_, rfl, rfl, untouched_setSound s (s.reg x) trivial⟩⟩⟩

/-! ### Waiting for a key -/

/-- The ascending scan stops at a pressed key with no pressed key below it (R173). -/
theorem lowestKey_eq_some {s : State} {k : Nib} (hk : s.key k = true)
    (hlow : ∀ j : Nib, j.toNat < k.toNat → s.key j = false) : s.lowestKey = some k.toNat := by
  rw [State.lowestKey, List.find?_range_eq_some]
  refine ⟨?_, List.mem_range.2 k.isLt, fun j hj => ?_⟩
  · rwa [BitVec.ofNat_toNat, BitVec.setWidth_eq]
  · have hval : (BitVec.ofNat 4 j).toNat = j := Nat.mod_eq_of_lt (hj.trans k.isLt)
    rw [hlow _ (hval.symm ▸ hj), Bool.not_false]

/-- The scan finds nothing where no key is pressed (R173). -/
theorem lowestKey_eq_none {s : State} (h : ∀ k, s.key k = false) : s.lowestKey = none :=
  List.find?_eq_none.2 fun k _ => ne_true_of_eq_false (h (BitVec.ofNat 4 k))

/-- With a key pressed, wait-key puts the lowest one into its register (R173). -/
theorem exec_waitKey_of_lowest {s : State} (x : Nib) {k : Nib} (hk : s.key k = true)
    (hlow : ∀ j : Nib, j.toNat < k.toNat → s.key j = false) :
    exec (.waitKey x) s = .next (s.setReg x (BitVec.ofNat 8 k.toNat)) := by
  simp only [exec, execWaitKey, lowestKey_eq_some hk hlow]

/-- With no key pressed, wait-key goes back to itself (R173 e). -/
theorem exec_waitKey_of_no_key {s : State} (x : Nib) (h : ∀ k, s.key k = false) :
    exec (.waitKey x) s = .next s.retreat := by
  simp only [exec, execWaitKey, lowestKey_eq_none h]

/-- A waiting tick undoes its own advance of `pc` and only counts the timers down (R173, R95). -/
theorem tick_waitKey_of_no_key {s : State} {x : Nib} (rnd : Byte) (hrun : s.fault = .none)
    (hdecode : decodeWord s.fetchWord = .waitKey x) (h : ∀ k, s.key k = false) :
    ∃ t, tick rnd s = .next t ∧ t.pc = s.pc ∧ (∀ r, t.reg r = s.reg r) ∧
      t.dt.toNat = s.dt.toNat - 1 ∧ t.st.toNat = s.st.toNat - 1 := by
  have hexec : exec (decodeWord s.fetchWord) (s.beginTick rnd) = .next (s.beginTick rnd).retreat :=
    hdecode ▸ exec_waitKey_of_no_key x h
  have hok : (s.beginTick rnd).retreat.fault = .none := hrun
  rw [tick_of_running hrun, runWord_of_exec hexec, finishTick_of_ok s hok]
  exact ⟨_, rfl, BitVec.add_sub_cancel s.pc 2, fun _ => rfl, countDown_toNat s.dt, countDown_toNat s.st⟩

/-- A 16-bit number lowered by 2 wraps modulo 65536. -/
theorem toNat_sub_two (a : Word) : (a - 2).toNat = (a.toNat + 65536 - 2) % 65536 := by
  bv_omega

/-- Settles O56: the scan's answer decides between the register write and the retreat, and a whole tick retreats to where
it began. -/
theorem waitKeyTakesLowestKeyOrWaits : Obligations.WaitKeyTakesLowestKeyOrWaits := by
  refine ⟨selects_row (.waitKey 0), fun s x k hk hlow => ?_, fun s x h => ?_,
    fun _ _ rnd hrun hdecode h => tick_waitKey_of_no_key rnd hrun hdecode h⟩
  · refine ⟨_, exec_waitKey_of_lowest x hk hlow, ?_, untouched_setReg s _ rfl⟩
    have hbyte : k.toNat < 256 := k.isLt.trans (by decide)
    rw [reg_setReg_self]
    exact Nat.mod_eq_of_lt hbyte
  · exact ⟨_, exec_waitKey_of_no_key x h, toNat_sub_two s.pc, untouched_setPc s _ trivial⟩

end Sys2Proof.Machine
end

section
/-! PROOFS. Exceptions (60_exceptions): the two precise faults of a full and of an empty stack (R191, R192, R195), no
other fault than these (R190), and the error of `load` (R206). -/

namespace Sys2Proof.Machine

/-! ### The stack faults -/

/-- Where the fetched instruction raises a fault, the tick latches it in the state it began in, and every further tick
leaves that state as it is (R97, R98, R195). -/
theorem tick_of_raise {s : State} {rnd : Byte} {f : FaultLatch} (hrun : s.fault = .none) (hf : f ≠ .none)
    (hexec : exec (decodeWord s.fetchWord) (s.beginTick rnd) = .next ((s.beginTick rnd).raise f)) :
    tick rnd s = .next { s with fault := f } ∧
    ∀ rnd', tick rnd' { s with fault := f } = .next { s with fault := f } := by
  refine ⟨?_, tick_of_halted hf⟩
  rw [tick_of_running hrun, runWord_of_exec hexec, finishTick_of_fault s hf, raise_fault]

/-- Settles O9: a word in the row of call decodes to a call, which raises the overflow when all slots are in use. -/
theorem stackOverflowIsPrecise : Obligations.StackOverflowIsPrecise := by
  intro s rnd hrun hrow h16
  have hdecode : decodeWord s.fetchWord = .call (fieldNNN s.fetchWord) := selects_row (.call 0) _ hrow
  exact tick_of_raise hrun (by decide) (hdecode ▸ exec_call_of_full _ h16)

/-- Settles O10: a word in the row of return decodes to a return, which raises the underflow on an empty stack. -/
theorem stackUnderflowIsPrecise : Obligations.StackUnderflowIsPrecise := by
  intro s rnd hrun hrow h0
  have hdecode : decodeWord s.fetchWord = .ret := selects_row .ret _ hrow
  exact tick_of_raise hrun (by decide) (hdecode ▸ exec_ret_of_empty h0)

/-- Settles O11: the end of a tick latches a fault only where the instruction raised one, and `exec_keeps` says which
instruction did. -/
theorem onlyCallAndReturnFault : Obligations.OnlyCallAndReturnFault := by
  intro s u rnd hrun h hfault
  rcases tick_cases h with ⟨hhalted, -⟩ | ⟨-, t, ht, rfl⟩
  · exact absurd hrun hhalted
  by_cases hok : t.fault = .none
  · rw [finishTick_of_ok s hok] at hfault
    exact absurd hok hfault
  · rw [finishTick_of_fault s hok]
    rcases (exec_keeps ht).fault with hsame | ⟨hcall, h16, rfl⟩ | ⟨hret, h0, rfl⟩
    · exact absurd (hsame.trans hrun) hok
    · exact .inl ⟨hcall, h16, rfl⟩
    · exact .inr ⟨hret, h0, rfl⟩

/-! ### The error of load -/

/-- An image of more than 3584 bytes is refused (R206, R215). -/
theorem load_of_oversized {image : List Byte} (s : State) (h : 3584 < image.length) :
    s.load image = .error .imageTooLarge :=
  if_neg fun hi => Nat.not_le_of_lt h (of_decide_eq_true hi)

/-- Settles O23: the host operation answers the state itself where `load` answers an error. -/
theorem oversizedImageIsRefused : Obligations.OversizedImageIsRefused := by
  intro s image h
  have hload := load_of_oversized s h
  exact ⟨hload, by simp only [HostOp.apply, hload]⟩

end Sys2Proof.Machine
end

section
/-! PROOFS. Reset and hazards (70_reset_and_hazards): the reset column (R210), program load (R213, R214, R216), empty
memory (R217), and that no tick stalls (R225). -/

namespace Sys2Proof.Machine

/-! ### No tick stalls -/

/-- A call answers a next state whenever `sp` is in 0..16: it overflows at 16 and pushes below (R102, R191). -/
theorem exec_call_completes {s : State} (nnn : Addr) (hsp : s.sp.toNat ≤ 16) :
    ∃ t, exec (.call nnn) s = .next t := by
  by_cases h16 : s.sp = 16
  · exact ⟨_, exec_call_of_full nnn h16⟩
  · have hfree : s.sp.toNat < 16 := by bv_omega
    exact ⟨_, exec_call_of_free (k := ⟨_, hfree⟩) nnn rfl⟩

/-- A return answers a next state whenever `sp` is in 0..16: it underflows at 0 and pops above (R100, R192). -/
theorem exec_ret_completes {s : State} (hsp : s.sp.toNat ≤ 16) : ∃ t, exec .ret s = .next t := by
  by_cases h0 : s.sp = 0
  · exact ⟨_, exec_ret_of_empty h0⟩
  · obtain ⟨k, hk⟩ : ∃ k : Fin 16, s.sp.toNat = k.val + 1 := ⟨⟨s.sp.toNat - 1, by omega⟩, by bv_omega⟩
    exact ⟨_, exec_ret_of_active hk⟩

/-- wait-key answers a next state whatever its scan finds (R173). -/
theorem exec_waitKey_completes (x : Nib) (s : State) : ∃ t, exec (.waitKey x) s = .next t := by
  simp only [exec, execWaitKey]
  split <;> exact ⟨_, rfl⟩

/-- Only call and return can stop short of a next state, and only with `sp` above 16 (R30, R79). -/
theorem exec_completes (i : Instr) {s : State} (hsp : s.sp.toNat ≤ 16) : ∃ t, exec i s = .next t := by
  cases i with
  | call nnn => exact exec_call_completes nnn hsp
  | ret => exact exec_ret_completes hsp
  | waitKey x => exact exec_waitKey_completes x s
  | _ => exact ⟨_, rfl⟩

/-- A tick answers a next state whenever `sp` is in 0..16: a halted core's own state, or the end of the tick. -/
theorem tick_completes {s : State} (hsp : s.sp.toNat ≤ 16) (rnd : Byte) : ∃ t, tick rnd s = .next t := by
  by_cases hrun : s.fault = .none
  · obtain ⟨t, ht⟩ := exec_completes (s := s.beginTick rnd) (decodeWord s.fetchWord) hsp
    exact ⟨_, (tick_of_running hrun rnd).trans (runWord_of_exec ht)⟩
  · exact ⟨s, tick_of_halted hrun rnd⟩

/-- Settles O14: the invariant keeps `sp` in 0..16, and a step is a tick. -/
theorem everyTickCompletes : Obligations.EveryTickCompletes := by
  rintro s ⟨hsp, -⟩
  exact ⟨tick_completes hsp, tick_completes hsp _⟩

/-! ### Program load -/

/-- Writing bytes writes only the addresses they go to, each taken modulo 4096. -/
theorem untouched_writeBytes {w : Writes} {a : Nat} {bs : List Byte} (s : State)
    (h : ∀ j < bs.length, w.mem ((a + j) % 4096)) : Untouched w s (s.writeBytes a bs) := by
  induction bs generalizing s a with
  | nil => exact .refl w s
  | cons b bs ih =>
    refine (untouched_writeMem s b (h 0 (Nat.zero_lt_succ _))).trans (ih (s.writeMem a b) fun j hj => ?_)
    have hnext := h (j + 1) (Nat.succ_lt_succ hj)
    rwa [← Nat.add_assoc, Nat.add_right_comm] at hnext

/-- Bytes written below the end of memory are each read back: the later ones go to higher addresses. -/
theorem readMem_writeBytes {a : Nat} {bs : List Byte} (s : State) (hfit : a + bs.length ≤ 4096) (j : Nat)
    (hj : j < bs.length) : (s.writeBytes a bs).readMem (a + j) = bs[j] := by
  induction bs generalizing s a j with
  | nil => cases hj
  | cons b bs ih =>
    rw [List.length_cons] at hfit hj
    cases j with
    | zero =>
      have hframe : Untouched { mem := fun c => a < c } (s.writeMem a b) ((s.writeMem a b).writeBytes (a + 1) bs) :=
        untouched_writeBytes _ fun k hk => by
          rw [Nat.mod_eq_of_lt (by omega)]
          omega
      exact (hframe.mem a (by omega) (Nat.lt_irrefl a)).trans (by rw [readMem_writeMem, if_pos rfl]; rfl)
    | succ j =>
      have hlater := ih (s.writeMem a b) (a := a + 1) (by omega) j (Nat.lt_of_succ_lt_succ hj)
      rwa [Nat.add_right_comm] at hlater

/-- An image of at most 3584 bytes is written at 0x200 and up (R213). -/
theorem load_of_fits {image : List Byte} (s : State) (h : image.length ≤ 3584) :
    s.load image = .ok (s.writeBytes 0x200 image) :=
  if_pos (decide_eq_true h)

/-- Settles O22: an image of at most 3584 bytes ends below 4096, so each byte lies at its own address. -/
theorem loadCopiesImage : Obligations.LoadCopiesImage := by
  intro s image hlen
  refine ⟨_, load_of_fits s hlen, readMem_writeBytes s (by omega), untouched_writeBytes s fun j hj => ?_⟩
  have hlt : 0x200 + j < 4096 := by omega
  rw [Nat.mod_eq_of_lt hlt]
  exact ⟨Nat.le_add_right _ _, Nat.add_lt_add_left hj _⟩

/-- A load that succeeds was given an image of at most 3584 bytes (R215). -/
theorem length_le_of_load_eq_ok {s t : State} {image : List Byte} (h : s.load image = .ok t) :
    image.length ≤ 3584 := by
  by_contra hlong
  rw [load_of_oversized s (Nat.lt_of_not_le hlong)] at h
  cases h

/-- Settles O24: the load leaves `pc` at 0x200, where the image's first two bytes lie, and the latch clear. -/
theorem firstInstructionIsImageStart : Obligations.FirstInstructionIsImageStart := by
  intro s t hi lo rest h
  obtain ⟨u, hu, hread, hframe⟩ := loadCopiesImage s.hostReset _ (length_le_of_load_eq_ok h)
  obtain rfl : u = t := Except.ok.inj (hu.symm.trans h)
  have hpc : u.pc = 0x200 := hframe.pc id
  have hhi : u.readMem u.pc.toNat = hi := hpc ▸ hread 0 (Nat.zero_lt_succ _)
  have hlo : u.readMem (u.pc.toNat + 1) = lo := hpc ▸ hread 1 (Nat.succ_lt_succ (Nat.zero_lt_succ _))
  refine ⟨?_, hframe.fault id⟩
  rw [State.fetchWord, hhi, hlo]

/-! ### The reset contents -/

/-- After reset every address below 4096 reads as its reset contents (R42, R210). -/
theorem readMem_resetWith (c : Config) {a : Nat} (ha : a < 4096) : (State.resetWith c).readMem a = resetByte c a := by
  rw [← Nat.mod_eq_of_lt ha]
  exact readMem_mod _ a

/-- A glyph byte is the byte of its row in its glyph (R40). -/
theorem glyphByte_eq (c : Config) {j : Nat} (hj : j < 80) :
    glyphByte c j = (c.glyphRom[j / 5]'(by omega))[j % 5]'(by omega) := by
  have hglyph : j / 5 < 16 := by omega
  have hrow : j % 5 < 5 := by omega
  simp [glyphByte, hglyph, hrow]

/-- The glyph table of admissible parameters ends at or below 0x200, where reset leaves zero (R8, R42). -/
theorem resetByte_of_ge {c : Config} (hc : c.wf) {a : Nat} (ha : 0x200 ≤ a) : resetByte c a = 0 := by
  have hbase : c.glyphBase.toNat + 80 ≤ 0x200 := of_decide_eq_true hc
  exact if_neg fun h => by omega

/-- Settles O21: memory reads as its reset contents, and every other part is the reset value of its field. -/
theorem resetClearsEverything : Obligations.ResetClearsEverything := by
  intro s t
  refine ⟨fun a ha => ?_, fun r => Vector.getElem_replicate _, rfl, rfl, rfl, fun k => Vector.getElem_replicate _, rfl,
    rfl, pixel_clearVideo t, fun k => Vector.getElem_replicate _, rfl, rfl, rfl⟩
  have hread : t.readMem a = resetByte s.cfg a := readMem_resetWith s.cfg ha
  rw [hread, resetByte]
  split
  · exact glyphByte_eq s.cfg (by omega)
  · rfl

/-! ### Empty memory -/

/-- With admissible parameters the word fetched right after reset is zero (R217). -/
theorem fetchWord_resetWith {c : Config} (hc : c.wf) : (State.resetWith c).fetchWord = 0 := by
  have hzero : ∀ a, 0x200 ≤ a → a < 4096 → (State.resetWith c).readMem a = 0 := fun a hge hlt =>
    (readMem_resetWith c hlt).trans (resetByte_of_ge hc hge)
  have hhi : (State.resetWith c).readMem (State.resetWith c).pc.toNat = 0 := hzero 0x200 (by decide) (by decide)
  have hlo : (State.resetWith c).readMem ((State.resetWith c).pc.toNat + 1) = 0 := hzero 0x201 (by decide) (by decide)
  rw [State.fetchWord, hhi, hlo]
  rfl

/-- Settles O25: clearing a cleared screen and counting down stopped timers change nothing, so the advance of `pc`
is what is left of the tick. -/
theorem emptyMemoryRunsClearScreen : Obligations.EmptyMemoryRunsClearScreen := by
  intro c rnd hc
  have hfetch := fetchWord_resetWith hc
  have hdecode : decodeWord (State.resetWith c).fetchWord = .clearScreen := by rw [hfetch]; rfl
  have hexec : exec (decodeWord (State.resetWith c).fetchWord) ((State.resetWith c).beginTick rnd) =
      .next ((State.resetWith c).beginTick rnd).clearVideo := by rw [hdecode]; rfl
  refine ⟨hdecode, ?_⟩
  rw [tick_of_running rfl, runWord_of_exec hexec, finishTick_of_ok _ rfl, State.beginTick, hfetch]
  rfl

end Sys2Proof.Machine
end

section
/-! PROOFS. The keypad skips (45_keypad_and_timers R170, R171, R176) and add-index (43_index_and_memory R141). -/

namespace Sys2Proof.Machine

/-! ### The key skips -/

/-- The key a register selects is its low four bits, the remainder modulo 16 (D7). -/
theorem keyIndex_toNat (s : State) (x : Nib) : (s.keyIndex x).toNat = (s.reg x).toNat % 16 :=
  BitVec.toNat_setWidth 4 (s.reg x)

/-- Settles O54: `k` is the key both instructions look up; both are skips, on its Boolean and on the negation. -/
theorem keySkipsTestTheSelectedKey : Obligations.KeySkipsTestTheSelectedKey := by
  refine ⟨selects_row (.skipKeyPressed 0), selects_row (.skipKeyNotPressed 0), fun s x k hk => ?_⟩
  have hkey : k = s.keyIndex x := BitVec.eq_of_toNat_eq (hk.trans (keyIndex_toNat s x).symm)
  subst hkey
  exact ⟨exec_skip_spec rfl Iff.rfl, exec_skip_spec rfl (iff_of_eq (Bool.not_eq_true' _))⟩

/-! ### add-index -/

/-- A 16-bit number raised by a byte wraps modulo 65536 (D10). -/
theorem toNat_add_zeroExtended_byte (a : Word) (v : Byte) :
    (a + v.setWidth 16).toNat = (a.toNat + v.toNat) % 65536 := by
  rw [BitVec.toNat_add, BitVec.toNat_setWidth_of_le (by decide)]

/-- Settles O45: the sum is taken modulo 65536, and only `I` is written. -/
theorem addIndexWrapsAtSixteenBits : Obligations.AddIndexWrapsAtSixteenBits :=
  ⟨selects_row (.addIndex 0), fun s x =>
    ⟨_, rfl, toNat_add_zeroExtended_byte s.I (s.reg x), untouched_setIndex s _ trivial⟩⟩

end Sys2Proof.Machine
end
